-- ==== Sys2Proof/Word.lean ====
section
/-! DEFINITION. The two word types of the core (00_scope.md R6, R7): every value has a stated width and arithmetic
on it wraps. Nothing is signed. -/

namespace Sys2Proof

/-- DATA_WIDTH: an 8-bit value (R6). -/
abbrev Byte := BitVec 8

/-- ADDR_WIDTH: a 16-bit value, an address or the program counter (R6). -/
abbrev Addr := BitVec 16

end Sys2Proof
end

