-- ==== Sys2Proof/Syntax.lean ====
section
/-! DEFINITION. The instructions: one constructor per row of spec/opcode_table.json, which has one row. -/

namespace Sys2Proof

/-- An instruction of the core (30_encoding.md R67). -/
inductive Instr where
  /-- BRK, opcode 0x00 (41_brk_sequence.md R87). It has no operand. The same instruction is what a Reset, NMI or IRQ
  entry injects (30_encoding.md R68). -/
  | brk
deriving DecidableEq, Repr

end Sys2Proof
end

