-- ==== Sys2Proof/WellFormed.lean ====
section
/-! DEFINITION. What is checked of an instruction before it is encoded, and of an opcode byte before it is an
instruction. -/

namespace Sys2Proof

/-- The ADMITTED_OPCODES of 00_scope.md R6: 0x00 and nothing else (30_encoding.md R67, R69). The one check of this
hardware: a byte that fails it is no instruction. -/
def opcodeAdmitted (b : Byte) : Bool := b == 0x00#8

/-- Every instruction term is well formed: BRK has no field to check (30_encoding.md R64, R66). -/
def Instr.wellFormed : Instr → Bool
  | .brk => true

end Sys2Proof
end

