-- ==== Sys2Proof/Decode.lean ====
section
/-! DEFINITION. The decoder and, after it, the encoder (30_encoding.md). The unit of both is one opcode byte (R63,
R64); no bit of P and no mode changes decoding (R70). -/

namespace Sys2Proof

/-- What the decoder answers for a byte: an instruction, or its own verdict "Unimplemented(b)", which names the byte
(30_encoding.md R72). -/
inductive Decoded where
  | instr (i : Instr)
  | unimplemented (b : Byte)
deriving DecidableEq, Repr

/-- The decoder, total on bytes (30_encoding.md R72). -/
def decode (b : Byte) : Decoded :=
  if opcodeAdmitted b then .instr .brk else .unimplemented b

/-- The opcode byte of an instruction (30_encoding.md R67). -/
def encode : Instr → Byte
  | .brk => 0x00#8

/-- The bytes of an instruction in memory order: one byte each (30_encoding.md R65, R70). -/
def encodeBytes (i : Instr) : List Byte := [encode i]

/-- The first byte of an instruction whose `nbits` bits are `w`, numbered as spec/opcode_table.json numbers them; the
bits above `nbits` are zero. Every instruction is one byte, so this is all the hardware stores of it. -/
def tableByte (nbits w : Nat) : Byte := BitVec.ofNat 8 (w % 2 ^ nbits)

/-- The instruction the decoder reads from a word of spec/opcode_table.json, `none` where it refuses. -/
def decodeTableWord (nbits w : Nat) : Option Instr :=
  match decode (tableByte nbits w) with
  | .instr i => some i
  | .unimplemented _ => none

end Sys2Proof
end

