-- ==== Sys2Proof/Machine/State.lean ====
section
/-! DEFINITION. The state of the core as plain data: the pin state, the register file and the execution state of
10_state.md. The core has no memory (20_memory.md R35), so State holds none; the reference host's memory stands in
Machine/RefHost.lean. A bit that is 1 in the spec is `true` here (log 4). -/

namespace Sys2Proof.Machine

/-- The pin state, "the only channel of communication with the external bus" (R11). A record of named fields, never a
packed word (R17). -/
structure Pins where
  /-- ADDR (R12): the address the engine requests. -/
  addr : Addr
  /-- DATA (R13): bidirectional, written by the engine and by the host. -/
  data : Byte
  /-- RW (R14): true (1) is read, false (0) is write. -/
  rw : Bool
  /-- SYNC (R15): true when the bus cycle is an opcode fetch, so that the next step is a fetch step. -/
  sync : Bool
  /-- IRQ (R16): an input, level-sensitive; true is asserted. -/
  irq : Bool
  /-- NMI (R16): an input, edge-sensitive; true is asserted. -/
  nmi : Bool
deriving DecidableEq, Repr

/-- The register file (R18). No register aliases another. -/
structure Registers where
  /-- A, the accumulator; no admitted micro-step reads or writes it (R19). -/
  a : Byte
  /-- X, the X index (R19). -/
  x : Byte
  /-- Y, the Y index (R19). -/
  y : Byte
  /-- S, the stack pointer (R20). -/
  s : Byte
  /-- P, the processor status (R21). Its two hard-wired bits are read and written through Machine/Flags.lean only. -/
  p : Byte
  /-- PC, the program counter (R24). -/
  pc : Addr
deriving DecidableEq, Repr

/-- REASON, the entry reason (R28). -/
inductive EntryReason where
  | reset
  | nmi
  | irq
  | softwareBreak
deriving DecidableEq, Repr

/-- The faults of the core: there is one (60_exceptions.md R100). -/
inductive Fault where
  /-- UnimplementedInstruction(op, cyc): dispatch found no micro-step for the pair (IR, CYC) (R108). A step records it
  in FAULT (40_step_engine.md R81), and `step` answers it for a state that holds it, which has no step (R74). Safe:
  the spec itself stops the machine here. -/
  | unimplementedInstruction (op : Byte) (cyc : Nat)
deriving DecidableEq, Repr

/-- The refusals of the model. -/
inductive Refusal where
  /-- An instruction that has no meaning in the model yet, by its mnemonic. Nothing raises it: the one instruction of
  the table has its meaning. Safe. -/
  | notModelled (mnemonic : String)
deriving DecidableEq, Repr

/-- Everything 10_state.md gives the core. -/
structure State where
  /-- The pin state (R11). -/
  pins : Pins
  /-- The register file (R18). -/
  regs : Registers
  /-- IR, the instruction register (R25). -/
  ir : Byte
  /-- CYC, the cycle index, a natural number (R26). -/
  cyc : Nat
  /-- AD, the scratch address register (R27). -/
  ad : Addr
  /-- REASON, the entry reason (R28). -/
  reason : EntryReason
  /-- RESET_PENDING: a reset entry is requested and not yet taken (R29). -/
  resetPending : Bool
  /-- NMI_LAST: the NMI level at the previous fetch step (R29). -/
  nmiLast : Bool
  /-- NMI_PENDING: an NMI edge has been seen and not yet taken (R29). -/
  nmiPending : Bool
  /-- FAULT: none, or the recorded fault (R30). -/
  fault : Option Fault
deriving DecidableEq, Repr

/-- The power-on state, every field at the value of R33. Reset happens only at power-on, by creating the engine in this
state (70_reset_and_hazards.md R119). -/
def State.reset : State where
  pins := { addr := 0x0000#16, data := 0x00#8, rw := true, sync := true, irq := false, nmi := false }
  regs := { a := 0x00#8, x := 0x00#8, y := 0x00#8, s := 0x00#8, p := 0x22#8, pc := 0x0000#16 }
  ir := 0x00#8
  cyc := 0
  ad := 0x0000#16
  reason := .reset
  resetPending := true
  nmiLast := false
  nmiPending := false
  fault := none

end Sys2Proof.Machine
end

