-- ==== Sys2Proof/Machine/Flags.lean ====
section
/-! DEFINITION. The processor status P: its flags by position, its two hard-wired bits, and the image of it that an entry
pushes (10_state.md R21-R23). Every read and write of P goes through `State.readP` and `State.writeP`, so bit 5 reads 1 and
bit 4 reads 0 in every state (log 3). The only flag an admitted micro-step changes is I; there is no flag computation
(R23). -/

namespace Sys2Proof.Machine

/-- The six flags of P (R21). -/
inductive Flag where
  | c
  | z
  | i
  | d
  | v
  | n
deriving DecidableEq, Repr

/-- The bit of P that holds a flag (R21). -/
def Flag.position : Flag → Nat
  | .c => 0
  | .z => 1
  | .i => 2
  | .d => 3
  | .v => 6
  | .n => 7

/-- A value of P with its reserved bits at their fixed values: bit 5 is 1, bit 4 is 0 (R22). -/
def fixReserved (v : Byte) : Byte := (v &&& 0xCF#8) ||| 0x20#8

/-- What a read of P gives (R22). -/
def State.readP (s : State) : Byte := fixReserved s.regs.p

/-- A write of P: one that would change a reserved bit leaves it at its fixed value (R22). -/
def State.writeP (s : State) (v : Byte) : State := { s with regs := { s.regs with p := fixReserved v } }

/-- The value of a flag, P.C to P.N (00_scope.md R8). -/
def State.flag (s : State) (f : Flag) : Bool := s.readP.getLsbD f.position

/-- `P.I <- 1` (41_brk_sequence.md R93). -/
def State.setInterruptDisable (s : State) : State := s.writeP (s.readP ||| 0x04#8)

/-- The image of P that micro-step (0x00, 3) puts on DATA: bit 5 is 1, and bit 4 is 1 for SoftwareBreak only (R22,
41_brk_sequence.md R93). -/
def pushedImage (reason : EntryReason) (p : Byte) : Byte :=
  p ||| 0x20#8 ||| (if reason = .softwareBreak then 0x10#8 else 0x00#8)

end Sys2Proof.Machine
end

