-- ==== Sys2Proof/Machine/Operands.lean ====
section
/-! DEFINITION. The addresses and bytes a micro-step computes: the stack address, the vector addresses, the halves of a
16-bit value and their joining. The core has no other operand form (30_encoding.md R66). -/

namespace Sys2Proof.Machine

/-- The stack address `0x0100 | zext16(S)` (10_state.md R20; STACK_PAGE of 00_scope.md R6). -/
def stackAddress (s : Byte) : Addr := 0x0100#16 ||| s.setWidth 16

/-- VEC(REASON): the address of the vector's low byte (41_brk_sequence.md R89, 60_exceptions.md R106). -/
def vector : EntryReason → Addr
  | .reset => 0xFFFC#16
  | .nmi => 0xFFFA#16
  | .irq => 0xFFFE#16
  | .softwareBreak => 0xFFFE#16

/-- `v[15:8]` (00_scope.md R7). -/
def highByte (v : Addr) : Byte := v.extractLsb' 8 8

/-- `v[7:0]` (00_scope.md R7). -/
def lowByte (v : Addr) : Byte := v.extractLsb' 0 8

/-- `hi ++ lo`, the high byte in the high bits (00_scope.md R7; little-endian vectors, 20_memory.md R50). -/
def joinBytes (hi lo : Byte) : Addr := hi ++ lo

/-- `zext16(v)` (00_scope.md R7). -/
def zext16 (v : Byte) : Addr := v.setWidth 16

/-- BRK_PC_ADVANCE: how far PC moves at cycle 1, by entry reason (00_scope.md R6, 41_brk_sequence.md R88). -/
def pcAdvance : EntryReason → Addr
  | .softwareBreak => 1#16
  | .reset => 0#16
  | .nmi => 0#16
  | .irq => 0#16

end Sys2Proof.Machine
end

