-- ==== Sys2Proof/Machine/Ops.lean ====
section
/-! DEFINITION. The engine's named operations: driving the pins, pushing a byte, sampling the interrupt lines at a fetch
step, the phases of a step, the fault, and taking an entry (Reset, NMI, IRQ or SoftwareBreak), which is ONE shared
sequence of seven micro-steps (60_exceptions.md R107). There is no return from an entry (R109), so no operation for it.
A micro-step changes only the state its rule names (40_step_engine.md R82), and its statements run in the order
written (00_scope.md R8). -/

namespace Sys2Proof.Machine

/-- `ADDR <- a` (10_state.md R12). -/
def State.assertAddress (s : State) (a : Addr) : State := { s with pins := { s.pins with addr := a } }

/-- `DATA <- v`: the byte field that the engine and the host share (10_state.md R13, 20_memory.md R45). -/
def State.driveData (s : State) (v : Byte) : State := { s with pins := { s.pins with data := v } }

/-- `RW <- b`, true is read (10_state.md R14). -/
def State.setDirection (s : State) (b : Bool) : State := { s with pins := { s.pins with rw := b } }

/-- `SYNC <- b` (10_state.md R15). -/
def State.setSync (s : State) (b : Bool) : State := { s with pins := { s.pins with sync := b } }

/-- `S <- v` (10_state.md R20). -/
def State.writeS (s : State) (v : Byte) : State := { s with regs := { s.regs with s := v } }

/-- `PC <- v` (10_state.md R24). -/
def State.writePc (s : State) (v : Addr) : State := { s with regs := { s.regs with pc := v } }

/-- `AD <- v` (10_state.md R27). -/
def State.writeAd (s : State) (v : Addr) : State := { s with ad := v }

/-- `CYC <- n` (10_state.md R26). -/
def State.setCyc (s : State) (n : Nat) : State := { s with cyc := n }

/-- `IR <- op; REASON <- r` (10_state.md R25, R28). -/
def State.latch (s : State) (op : Byte) (r : EntryReason) : State := { s with ir := op, reason := r }

/-- The NMI edge detector of a fetch step: a line seen at 1 after it was seen at 0 sets NMI_PENDING, and the level is
remembered (60_exceptions.md R101, R102). -/
def State.detectNmiEdge (s : State) : State :=
  { s with nmiPending := s.nmiPending || (s.pins.nmi && !s.nmiLast), nmiLast := s.pins.nmi }

/-- `boundary_sample()` (60_exceptions.md R101): the entry taken at a fetch step, Reset before NMI before IRQ before the
fetched opcode (R105). An entry injects 0x00 and discards DATA. IRQ is masked by P.I and not latched (R103). -/
def State.boundarySample (s : State) : State :=
  let e := s.detectNmiEdge
  if e.resetPending then { e.latch 0x00#8 .reset with resetPending := false }
  else if e.nmiPending then { e.latch 0x00#8 .nmi with nmiPending := false }
  else if e.pins.irq && !(e.flag .i) then e.latch 0x00#8 .irq
  else e.latch e.pins.data .softwareBreak

/-- Phase 1 of a step: where SYNC is set, the fetch step samples, resets CYC and clears SYNC (40_step_engine.md R75).
PC does not move. -/
def State.fetchPhase (s : State) : State :=
  if s.pins.sync then (s.boundarySample.setCyc 0).setSync false else s

/-- Phases 1 and 2 of a step: the fetch, then `RW <- 1` (40_step_engine.md R75, R76). -/
def State.beginStep (s : State) : State := s.fetchPhase.setDirection true

/-- Phase 4 of a step: `CYC <- CYC + 1` (40_step_engine.md R78). -/
def State.nextCycle (s : State) : State := s.setCyc (s.cyc + 1)

/-- `raise UnimplementedInstruction(IR, CYC)`: FAULT holds the record, and nothing else changes (40_step_engine.md
R81). -/
def State.raiseUnimplemented (s : State) : State := { s with fault := some (.unimplementedInstruction s.ir s.cyc) }

/-- A push: `S <- S - 1; ADDR <- 0x0100 | zext16(S); DATA <- v; if REASON ≠ Reset: RW <- 0`. Under Reset the write is
suppressed: everything but RW happens (41_brk_sequence.md R91-R93, R98). -/
def State.push (s : State) (v : Byte) : State :=
  let t := s.writeS (s.regs.s - 1#8)
  let u := (t.assertAddress (stackAddress t.regs.s)).driveData v
  if u.reason = .reset then u else u.setDirection false

/-- (0x00, 0), the dummy fetch (41_brk_sequence.md R90). -/
def State.entryDummyFetch (s : State) : State := s.assertAddress s.regs.pc

/-- (0x00, 1), push the high byte of PC, after the advance that only a SoftwareBreak makes (41_brk_sequence.md R91). -/
def State.entryPushPcHigh (s : State) : State :=
  let t := s.writePc (s.regs.pc + pcAdvance s.reason)
  t.push (highByte t.regs.pc)

/-- (0x00, 2), push the low byte of PC (41_brk_sequence.md R92). -/
def State.entryPushPcLow (s : State) : State := s.push (lowByte s.regs.pc)

/-- (0x00, 3), push the image of P, select the vector and set I, in this order (41_brk_sequence.md R93). -/
def State.entryPushStatus (s : State) : State :=
  let t := s.push (pushedImage s.reason s.readP)
  (t.writeAd (vector t.reason)).setInterruptDisable

/-- (0x00, 4), read the vector's low byte (41_brk_sequence.md R94). -/
def State.entryReadVectorLow (s : State) : State := (s.assertAddress s.ad).writeAd (s.ad + 1#16)

/-- (0x00, 5), read the vector's high byte and capture the low byte from DATA (41_brk_sequence.md R95). -/
def State.entryReadVectorHigh (s : State) : State := (s.assertAddress s.ad).writeAd (zext16 s.pins.data)

/-- (0x00, 6), load PC from DATA and the captured byte and re-arm the fetch (41_brk_sequence.md R96). -/
def State.entryLoadPc (s : State) : State :=
  let t := s.writePc (joinBytes s.pins.data (lowByte s.ad))
  (t.assertAddress t.regs.pc).setSync true

/-- Taking an entry: the micro-step of the 0x00 sequence at a cycle index, `none` where the dispatch table has no entry
(40_step_engine.md R77; 60_exceptions.md R107). The entry reason stands in the state. -/
def State.takeEntry (s : State) : Nat → Option State
  | 0 => some s.entryDummyFetch
  | 1 => some s.entryPushPcHigh
  | 2 => some s.entryPushPcLow
  | 3 => some s.entryPushStatus
  | 4 => some s.entryReadVectorLow
  | 5 => some s.entryReadVectorHigh
  | 6 => some s.entryLoadPc
  | _ => none

/-- The states of the engine's state machine (10_state.md R31). -/
inductive Phase where
  | fetch
  | executing (op : Byte) (cyc : Nat)
  | stuck (f : Fault)
deriving DecidableEq, Repr

/-- The state of the state machine that a state of the core is in (10_state.md R31). -/
def State.phase (s : State) : Phase :=
  match s.fault with
  | some f => .stuck f
  | none => if s.pins.sync then .fetch else .executing s.ir s.cyc

end Sys2Proof.Machine
end

