-- ==== Sys2Proof/Machine/Break.lean ====
section
/-! DEFINITION. The meaning of BRK, the one instruction of spec/opcode_table.json. -/

namespace Sys2Proof.Machine

/-- BRK (41_brk_sequence.md R87), phases 3 and 4 of one step: the micro-step of the 0x00 sequence at CYC, then
`CYC <- CYC + 1`; at a cycle index with no dispatch entry, the fault (40_step_engine.md R77, R78, R81). Seven steps run
the whole instruction, whatever the entry reason (30_encoding.md R68). It answers a next state on every path. -/
def execBrk (s : State) : Host.Outcome State Fault Refusal :=
  match s.takeEntry s.cyc with
  | some t => .next t.nextCycle
  | none => .next s.raiseUnimplemented

end Sys2Proof.Machine
end

