-- ==== Sys2Proof/Machine/Cycle.lean ====
section
/-! DEFINITION. Phase 3 of a step as the decoder sees it, and the placing of an opcode where a step fetches it. -/

namespace Sys2Proof.Machine

/-- Dispatch on IR (40_step_engine.md R77): the instruction it decodes to runs, and a byte the decoder does not admit
raises UnimplementedInstruction(IR, CYC) (30_encoding.md R72, 40_step_engine.md R81). -/
def State.dispatch (s : State) : Host.Outcome State Fault Refusal :=
  match decode s.ir with
  | .instr i => exec i s
  | .unimplemented _ => .next s.raiseUnimplemented

/-- A state whose next step fetches the byte `b` and finds no entry requested: SYNC is 1 and the host has delivered `b`
on DATA (30_encoding.md R63), no reset or NMI is pending, neither line is asserted and no fault is recorded
(60_exceptions.md R101). Nothing else changes (log 6). -/
def State.presentOpcode (s : State) (b : Byte) : State :=
  { s with
    pins := { s.pins with data := b, sync := true, irq := false, nmi := false }
    resetPending := false
    nmiPending := false
    fault := none }

end Sys2Proof.Machine
end

