-- ==== Sys2Proof/Machine/Step.lean ====
section
/-! DEFINITION. The engine's one operation, `step()`, one clock cycle (40_step_engine.md R73, R79). -/

namespace Sys2Proof.Machine

/-- `step()` (40_step_engine.md R79): a state that records a fault has no step (R74) and answers that fault; every other
state runs phases 1 and 2 and then dispatches on (IR, CYC). It is total where FAULT = none (R83). -/
def step (s : State) : Host.Outcome State Fault Refusal :=
  match s.fault with
  | some f => .fault f
  | none => s.beginStep.dispatch

/-- The state whose very next step fetches and runs the instruction with these bits (log 6). -/
def State.withFetchWord (s : State) (nbits w : Nat) : State := s.presentOpcode (tableByte nbits w)

end Sys2Proof.Machine
end

