-- ==== Sys2Proof/Laws/PerInstr.lean ====
section
/-! SUPPORT. The statements made per instruction, one lemma per constructor of Instr. -/

namespace Sys2Proof.Laws.Encoding

/-- A well-formed instruction encodes to one admitted byte, and the decoder and the table's reading of that byte give it
back (30_encoding.md R67, R72). -/
def Statement (i : Instr) : Prop :=
  i.wellFormed = true →
    opcodeAdmitted (encode i) = true ∧ encodeBytes i = [encode i] ∧ decode (encode i) = .instr i ∧
      decodeTableWord 8 (encode i).toNat = some i

theorem brk : Statement .brk := fun _ => ⟨rfl, rfl, rfl, rfl⟩

end Sys2Proof.Laws.Encoding
end

