-- ==== Sys2Proof/Config.lean ====
section
/-! DEFINITION. What the implementation fixes. 00_scope.md R6 gives every parameter a value, so nothing here is left open and
there is no free value. The parameters that a step computes with stand with the operations that use them: the stack page,
the vectors and the advance of BRK in Machine/Operands.lean, the flag positions and reserved bits in Machine/Flags.lean, the
seven cycles of opcode 0x00 in Machine/Ops.lean. -/

namespace Sys2Proof.Config

/-- The number of byte addresses (R6, 20_memory.md R34). -/
def addressCount : Nat := 65536

end Sys2Proof.Config
end

