-- ==== Sys2Proof/Machine/Memory.lean ====
section
/-! DEFINITION. A flat memory of 65,536 bytes as a list of cells in one canonical form: addresses strictly rising and
inside the address space, and no cell equal to what an unlisted address reads as. It is the memory of the reference host
(20_memory.md R62), not of the core. -/

namespace Sys2Proof.Machine

/-- The memory M of a host that behaves as memory. -/
abbrev Memory := List Host.Cell

/-- What an unlisted address reads as: 0x00, since H_mem "starts with memory M all zero except the bytes listed"
(95_test_vectors.md). -/
def unlistedByte : Byte := 0x00#8

/-- The byte at an address. -/
def Memory.readAt : Memory → Nat → Byte
  | [], _ => unlistedByte
  | (b, w) :: rest, a => if a = b then w else Memory.readAt rest a

/-- Writing a byte, keeping the canonical form: writing `unlistedByte` removes the cell. -/
def Memory.writeAt : Memory → Nat → Byte → Memory
  | [], a, v => if v = unlistedByte then [] else [(a, v)]
  | (b, w) :: rest, a, v =>
    if a < b then (if v = unlistedByte then (b, w) :: rest else (a, v) :: (b, w) :: rest)
    else if a = b then (if v = unlistedByte then rest else (a, v) :: rest)
    else (b, w) :: Memory.writeAt rest a v

/-- `MemRead(addr, 1)` (00_scope.md R9). -/
def Memory.read (m : Memory) (a : Addr) : Byte := Memory.readAt m a.toNat

/-- `MemWrite(addr, 1, v)` (00_scope.md R9). -/
def Memory.write (m : Memory) (a : Addr) (v : Byte) : Memory := Memory.writeAt m a.toNat v

/-- The canonical form above a lower bound on the addresses. -/
def Memory.wfFrom : Nat → Memory → Bool
  | _, [] => true
  | lo, (a, v) :: rest =>
    decide (lo ≤ a) && decide (a < Config.addressCount) && decide (v ≠ unlistedByte) && Memory.wfFrom (a + 1) rest

/-- The canonical form. -/
def Memory.wf (m : Memory) : Bool := Memory.wfFrom 0 m

end Sys2Proof.Machine
end

