-- ==== Sys2Proof/Machine/Listing.lean ====
section
/-! DEFINITION. The listing syntax of 30_encoding.md R71, the notation of the spec's programs: BRK, .byte and .org. A
listing is read into the memory of the reference host. There are no pseudo-instructions. -/

namespace Sys2Proof.Machine

/-- A line of a listing (R71). -/
inductive ListingLine where
  /-- `BRK`, and any other instruction by its mnemonic: it assembles to its opcode byte. -/
  | instr (i : Instr)
  /-- `.byte v1, v2, ...`: literal bytes. -/
  | bytes (vs : List Byte)
  /-- `.org a`: sets the assembly address. -/
  | org (a : Addr)
deriving DecidableEq, Repr

/-- The instruction of a mnemonic. "Any other mnemonic is unknown" (R71). -/
def instrOfMnemonic (name : String) : Option Instr := if name = "BRK" then some .brk else none

/-- Places bytes one after another from an address. DESIGN CHOICE: the assembly address wraps modulo 2^16 (log 13). -/
def placeBytes (m : Memory) (a : Addr) : List Byte → Memory × Addr
  | [] => (m, a)
  | v :: vs => placeBytes (m.write a v) (a + 1#16) vs

/-- Assembles a listing into a memory, from an assembly address. -/
def assembleFrom (m : Memory) (a : Addr) : List ListingLine → Memory
  | [] => m
  | .instr i :: rest => let r := placeBytes m a (encodeBytes i); assembleFrom r.1 r.2 rest
  | .bytes vs :: rest => let r := placeBytes m a vs; assembleFrom r.1 r.2 rest
  | .org b :: rest => assembleFrom m b rest

/-- The memory of a listing: bytes not listed are 0x00. DESIGN CHOICE: a listing without .org starts at 0x0000
(log 13). -/
def assemble (listing : List ListingLine) : Memory := assembleFrom [] 0x0000#16 listing

end Sys2Proof.Machine
end

