-- ==== Sys2Proof/Machine/Bus.lean ====
section
/-! DEFINITION. The pin interface as the host sees it: the bus cycle a step leaves, the pin accessors, and what the host
may do between two steps (20_memory.md R37-R49). -/

namespace Sys2Proof.Machine

/-- The kind of a bus cycle (R37). -/
inductive BusKind where
  | read
  | write
deriving DecidableEq, Repr

/-- The request the pin state describes (R37). `wdata` means something for a write only. -/
structure BusCycle where
  kind : BusKind
  address : Addr
  wdata : Byte
  opfetch : Bool
deriving DecidableEq, Repr

/-- The bus cycle of a pin state: of the state a step leaves, and of the power-on state (R37, R38). It is a projection
of the pins, with no check of FAULT. DESIGN CHOICE (log 14): R37 reads every state a step leaves as one bus cycle, and
70_reset_and_hazards.md R129 says a faulting step leaves none, so of a state with a fault record this is the pin state
written as a bus cycle, and no request that a host answers. -/
def State.busCycle (s : State) : BusCycle where
  kind := if s.pins.rw then .read else .write
  address := s.pins.addr
  wdata := s.pins.data
  opfetch := s.pins.sync

/-- `readAddress()` (R43). -/
def State.readAddress (s : State) : Addr := s.pins.addr

/-- `readData()` (R44). -/
def State.readData (s : State) : Byte := s.pins.data

/-- `readReadWrite()`: 1 is read, 0 is write (R46). -/
def State.readReadWrite (s : State) : BitVec 1 := BitVec.ofBool s.pins.rw

/-- `readSync()` (R46). -/
def State.readSync (s : State) : BitVec 1 := BitVec.ofBool s.pins.sync

/-- `setData(v)`: `DATA <- v[7:0]`; a wider input is truncated (R45). -/
def State.setData (s : State) (v : Nat) : State := s.driveData (BitVec.ofNat 8 v)

/-- `setIRQ()` with level 1, and the spec's `setIRQ(0)` (R47). -/
def State.setIRQ (s : State) (level : Bool) : State := { s with pins := { s.pins with irq := level } }

/-- `setNMI()` with level 1, and the spec's `setNMI(0)` (R47). -/
def State.setNMI (s : State) (level : Bool) : State := { s with pins := { s.pins with nmi := level } }

/-- What the host may do to the core between two steps: its three input setters and nothing else (R49,
10_state.md R32). -/
inductive HostAction where
  | setData (v : Nat)
  | setIRQ (level : Bool)
  | setNMI (level : Bool)
deriving DecidableEq, Repr

/-- One call of a setter. -/
def State.act (s : State) : HostAction → State
  | .setData v => s.setData v
  | .setIRQ level => s.setIRQ level
  | .setNMI level => s.setNMI level

/-- The host's turn between two steps: any number of setter calls, in order (R49). The empty turn services nothing, and
DATA stays as it was (R42). -/
def State.hostTurn (s : State) : List HostAction → State
  | [] => s
  | a :: rest => (s.act a).hostTurn rest

end Sys2Proof.Machine
end

