-- ==== Sys2Proof/Machine/Run.lean ====
section
/-! DEFINITION. The core driven by a host: a turn of the host and then a step, again and again (20_memory.md R49,
40_step_engine.md R85). The host is any host: its turns are an argument. -/

namespace Sys2Proof.Machine

/-- One turn of the host and the step after it. -/
def State.cycle (s : State) (turn : List HostAction) : Host.Outcome State Fault Refusal := step (s.hostTurn turn)

/-- The run of a list of host turns, a step after each; it stops at the first state that has no step. -/
def State.runTurns (s : State) : List (List HostAction) → Host.Outcome State Fault Refusal
  | [] => .next s
  | turn :: rest =>
    match s.cycle turn with
    | .next t => t.runTurns rest
    | .fault f => .fault f
    | .refused r => .refused r

end Sys2Proof.Machine
end

