-- ==== Sys2Proof/Machine/RefHost.lean ====
section
/-! DEFINITION. The reference host H_mem of 20_memory.md R62: a core and a memory that answers its bus cycles. It is
the spec's own harness and no part of the core: nothing in the machine depends on it. -/

namespace Sys2Proof.Machine

/-- A core wired to the reference host's memory. -/
structure RefHost where
  core : State
  mem : Memory
deriving DecidableEq, Repr

/-- H_mem before step 1, with memory `m` (R62). -/
def RefHost.powerOn (m : Memory) : RefHost := { core := State.reset, mem := m }

/-- The levels H_mem sets before one step: `irq(k)` and `nmi(k)` of its schedule (R62). -/
structure Lines where
  irq : Bool
  nmi : Bool
deriving DecidableEq, Repr

/-- `IRQ <- irq(k); NMI <- nmi(k)` (R62). -/
def RefHost.setLines (h : RefHost) (l : Lines) : RefHost :=
  { h with core := (h.core.setIRQ l.irq).setNMI l.nmi }

/-- H_mem's service of the bus cycle: a read is answered with `M[ADDR]`, a write commits DATA to it (R39, R40, R62). -/
def RefHost.service (h : RefHost) : RefHost :=
  match h.core.busCycle.kind with
  | .read => { h with core := h.core.setData (h.mem.read h.core.busCycle.address).toNat }
  | .write => { h with mem := h.mem.write h.core.busCycle.address h.core.busCycle.wdata }

/-- One round of H_mem's loop: the lines, the service, the step (R62). -/
def RefHost.round (h : RefHost) (l : Lines) : Host.Outcome RefHost Fault Refusal :=
  let g := (h.setLines l).service
  match step g.core with
  | .next c => .next { g with core := c }
  | .fault f => .fault f
  | .refused r => .refused r

/-- H_mem's loop over a schedule: it "stops if FAULT ≠ none", with the state that holds the record (R62). -/
def RefHost.run (h : RefHost) : List Lines → RefHost
  | [] => h
  | l :: rest =>
    match h.round l with
    | .next g => g.run rest
    | .fault _ => h
    | .refused _ => h

end Sys2Proof.Machine
end

