-- ==== Sys2Proof/Safety.lean ====
section
/-! DEFINITION. What counts as a safe state, and the form that every state reachable from power-on has, in the terms the
statements use. Each part is a decidable proposition about one state. -/

namespace Sys2Proof.Machine

/-- A state that has a step: no fault is recorded (40_step_engine.md R74). -/
abbrev State.Safe (s : State) : Prop := s.fault = none

/-- An entry is requested at a fetch step in this state: a pending reset, a pending NMI or a new NMI edge, or an unmasked
IRQ (60_exceptions.md R101-R103). -/
abbrev State.EntryRequested (s : State) : Prop :=
  s.resetPending = true ∨ s.nmiPending = true ∨ (s.pins.nmi = true ∧ s.nmiLast = false) ∨
    (s.pins.irq = true ∧ s.flag .i = false)

/-- The step that left this state ran micro-step (0x00, k) (40_step_engine.md R77, R78). -/
abbrev State.Ran (t : State) (k : Nat) : Prop := t.fault = none ∧ t.ir = 0x00#8 ∧ t.cyc = k + 1

/-- The step that left this state ran one of the three pushes (41_brk_sequence.md R91-R93). -/
abbrev State.RanPush (t : State) : Prop := t.Ran 1 ∨ t.Ran 2 ∨ t.Ran 3

/-- The stored reserved bits of P have their fixed values: bit 5 is 1, bit 4 is 0 (10_state.md R22). -/
abbrev State.StatusForm (s : State) : Prop := s.regs.p &&& 0x30#8 = 0x20#8

/-- A, X and Y hold their power-on value (10_state.md R19). -/
abbrev State.IndexForm (s : State) : Prop := s.regs.a = 0x00#8 ∧ s.regs.x = 0x00#8 ∧ s.regs.y = 0x00#8

/-- The state is between two instructions, inside the 0x00 sequence, or stuck on an unimplemented opcode at cycle 0
(10_state.md R26, R31; 60_exceptions.md R108). -/
abbrev State.PhaseForm (s : State) : Prop :=
  (s.fault = none ∧ s.pins.sync = true ∧ s.ir = 0x00#8 ∧ (s.cyc = 7 ∨ (s.cyc = 0 ∧ s.resetPending = true))) ∨
  (s.fault = none ∧ s.pins.sync = false ∧ s.ir = 0x00#8 ∧ 1 ≤ s.cyc ∧ s.cyc ≤ 6) ∨
  (s.fault = some (.unimplementedInstruction s.ir 0) ∧ s.ir ≠ 0x00#8 ∧ s.pins.sync = false ∧ s.cyc = 0)

/-- A write cycle is left only by the three pushes of an entry that is no reset (41_brk_sequence.md R97). -/
abbrev State.WriteForm (s : State) : Prop :=
  s.pins.rw = false → s.fault = none ∧ s.pins.sync = false ∧ 2 ≤ s.cyc ∧ s.cyc ≤ 4 ∧ s.reason ≠ .reset

/-- What the entry state can be: no IRQ entry, the reset request only in the power-on state, and I set from the fourth
step of the reset sequence on (10_state.md R23; 60_exceptions.md R102, R118). -/
abbrev State.EntryForm (s : State) : Prop :=
  s.reason ≠ .irq ∧
  (s.nmiPending = true → s.reason = .reset) ∧
  (s.resetPending = true →
    s.fault = none ∧ s.pins.sync = true ∧ s.cyc = 0 ∧ s.reason = .reset ∧ s.nmiPending = false ∧ s.nmiLast = false) ∧
  (s.resetPending = false → s.flag .i = true ∨ (s.reason = .reset ∧ s.pins.sync = false ∧ s.cyc ≤ 3))

/-- What ADDR holds at each point of the sequence (41_brk_sequence.md R99). -/
abbrev State.AddressForm (s : State) : Prop :=
  ((s.pins.sync = true ∨ s.cyc ≤ 1) → s.pins.addr = s.regs.pc) ∧
  (s.pins.sync = false → 2 ≤ s.cyc → s.cyc ≤ 4 → s.pins.addr = stackAddress s.regs.s) ∧
  (s.pins.sync = false → s.cyc = 5 → s.pins.addr = vector s.reason) ∧
  (s.pins.sync = false → s.cyc = 6 → s.pins.addr = vector s.reason + 1#16)

/-- What AD holds at each point of the sequence (10_state.md R27). -/
abbrev State.ScratchForm (s : State) : Prop :=
  (s.cyc = 4 → s.ad = vector s.reason) ∧
  (s.cyc = 5 → s.ad = vector s.reason + 1#16) ∧
  (6 ≤ s.cyc → highByte s.ad = 0x00#8)

/-- The form of every state reachable from power-on under any host. -/
abbrev State.ReachableForm (s : State) : Prop :=
  s.StatusForm ∧ s.IndexForm ∧ s.PhaseForm ∧ s.WriteForm ∧ s.EntryForm ∧ s.AddressForm ∧ s.ScratchForm

end Sys2Proof.Machine
end

