-- ==== Sys2Proof/Certificates/Slice0/Obligations.lean ====
section
/-! DEFINITION. The statements for the provers. Each follows a numbered rule of spec/ and says so; where it says "under any
host", the host's turns are universally quantified. -/

open Sys2Proof Sys2Proof.Machine

/-! ### Reset and the pin interface -/

/-- R33: the power-on value of every piece of state, and what P then reads. -/
def Obligations.ResetIsThePowerOnState : Prop :=
  State.reset.pins = { addr := 0x0000#16, data := 0x00#8, rw := true, sync := true, irq := false, nmi := false } ∧
  State.reset.regs.a = 0x00#8 ∧ State.reset.regs.x = 0x00#8 ∧ State.reset.regs.y = 0x00#8 ∧
  State.reset.regs.s = 0x00#8 ∧ State.reset.regs.pc = 0x0000#16 ∧ State.reset.readP = 0x22#8 ∧
  State.reset.flag .z = true ∧ State.reset.flag .c = false ∧ State.reset.flag .i = false ∧
  State.reset.flag .d = false ∧ State.reset.flag .v = false ∧ State.reset.flag .n = false ∧
  State.reset.ir = 0x00#8 ∧ State.reset.cyc = 0 ∧ State.reset.ad = 0x0000#16 ∧ State.reset.reason = .reset ∧
  State.reset.resetPending = true ∧ State.reset.nmiLast = false ∧ State.reset.nmiPending = false ∧
  State.reset.fault = none ∧ Sys2Proof.core.reset = State.reset

/-- R38: the power-on state describes a read of 0x0000 with SYNC = 1, and its data is never used: the first step gives the
same state whatever byte the host delivered, but for DATA itself. -/
def Obligations.PowerOnFetchDataIsNeverUsed : Prop :=
  State.reset.busCycle.kind = .read ∧ State.reset.busCycle.address = 0x0000#16 ∧
  State.reset.busCycle.opfetch = true ∧
  ∃ t, step State.reset = .next t ∧ t.ir = 0x00#8 ∧ t.reason = .reset ∧
    ∀ v, step (State.reset.setData v) = .next (t.setData v)

/-- R43, R44, R46 and R37: each pin accessor returns its field, and the bus cycle is the pin state. That a state with a
fault record has one too is the model's choice (log entry 14). -/
def Obligations.PinAccessorsAndBusCycleReadThePins : Prop :=
  ∀ s : State,
    s.readAddress = s.pins.addr ∧ s.readData = s.pins.data ∧
    (s.readReadWrite = 1#1 ↔ s.pins.rw = true) ∧ (s.readSync = 1#1 ↔ s.pins.sync = true) ∧
    (s.busCycle.kind = .read ↔ s.pins.rw = true) ∧ s.busCycle.address = s.pins.addr ∧
    s.busCycle.wdata = s.pins.data ∧ s.busCycle.opfetch = s.pins.sync

/-- R45: setData writes the low 8 bits of its argument to DATA, and nothing else. -/
def Obligations.SetDataWritesTheLowEightBits : Prop :=
  ∀ (s : State) (v : Nat),
    s.setData v = { s with pins := { s.pins with data := BitVec.ofNat 8 v } } ∧
    (s.setData v).readData.toNat = v % 256 ∧ (s.setData v).readAddress = s.readAddress ∧
    (s.setData v).readReadWrite = s.readReadWrite ∧ (s.setData v).readSync = s.readSync

/-- R47: each line setter sets its own line to 1 or 0, and nothing else. -/
def Obligations.LineSettersWriteTheirLine : Prop :=
  ∀ (s : State) (level : Bool),
    s.setIRQ level = { s with pins := { s.pins with irq := level } } ∧
    s.setNMI level = { s with pins := { s.pins with nmi := level } }

/-- R32 and R49: whatever the host does in a turn (a list of setter calls, log entry 8), only DATA, IRQ and NMI can differ
afterwards. -/
def Obligations.HostTurnReachesOnlyItsThreePins : Prop :=
  ∀ (s : State) (turn : List HostAction), ∃ (d : Byte) (irq nmi : Bool),
    s.hostTurn turn = { s with pins := { s.pins with data := d, irq := irq, nmi := nmi } }

/-- R42, by vector V-K4: a reset that the host never services loads PC with the pushed image of P, 0x22, twice. -/
def Obligations.UnservicedResetLoadsTheStaleByte : Prop :=
  ∃ t, State.reset.runTurns [[], [], [], [], [], [], []] = .next t ∧
    t.regs.pc = 0x2222#16 ∧ t.pins.addr = 0x2222#16 ∧ t.ad = 0x0022#16 ∧ t.pins.data = 0x22#8

/-! ### Encoding -/

/-- R72: the decoder is total on bytes, BRK for 0x00 and Unimplemented(b) otherwise. -/
def Obligations.DecoderIsTotalOnBytes : Prop :=
  ∀ b : Byte, (b = 0x00#8 → decode b = .instr .brk) ∧ (b ≠ 0x00#8 → decode b = .unimplemented b)

/-- R67: decoding and encoding agree in both directions, for every instruction and every byte. -/
def Obligations.DecodeAndEncodeAgree : Prop :=
  (∀ i, Sys2Proof.Laws.Encoding.Statement i) ∧ ∀ (b : Byte) (i : Instr), decode b = .instr i ↔ b = encode i

/-- R67, R69: words of the opcode table and of three opcodes that have no dispatch entry, as the spec writes them. -/
def Obligations.OpcodeWordsDecodeAsWritten : Prop :=
  decodeTableWord 8 0b00000000 = some .brk ∧ decodeTableWord 8 0x01 = none ∧ decodeTableWord 8 0xEA = none ∧
    decodeTableWord 8 0xFF = none

/-- R71: BRK assembles to the byte 0x00, .byte places literal bytes, .org sets the assembly address, and any other
mnemonic is unknown. (The wrap of the assembly address and its start are the model's choice, log entry 13.) -/
def Obligations.ListingLinesAssembleAsWritten : Prop :=
  (∀ name, instrOfMnemonic name = if name = "BRK" then some .brk else none) ∧
  ∀ (m : Memory) (a : Addr) (rest : List ListingLine),
    assembleFrom m a (.instr .brk :: rest) = assembleFrom (m.write a 0x00#8) (a + 1#16) rest ∧
    assembleFrom m a (.bytes [] :: rest) = assembleFrom m a rest ∧
    (∀ v vs, assembleFrom m a (.bytes (v :: vs) :: rest) =
      assembleFrom (m.write a v) (a + 1#16) (.bytes vs :: rest)) ∧
    ∀ b, assembleFrom m a (.org b :: rest) = assembleFrom m b rest

/-! ### The step -/

/-- R79: step is the four phases. The opcode in IR after phases 1 and 2 decides: an instruction runs by exec, a byte that
decodes to none records the fault (log entries 1 and 7). -/
def Obligations.StepRunsTheDecodedInstruction : Prop :=
  ∀ s : State, s.fault = none →
    (∀ i, decode s.beginStep.ir = .instr i → step s = exec i s.beginStep) ∧
    (∀ b, decode s.beginStep.ir = .unimplemented b →
      step s = .next { s.beginStep with
        fault := some (.unimplementedInstruction s.beginStep.ir s.beginStep.cyc) })

/-- R75 and R76 at a fetch step that finds no entry requested: IR is the byte on DATA, CYC is 0, SYNC is 0 and RW is 1
when dispatch happens, PC has not moved; and the placing of a word (log entry 6) makes just such a state of any state.
-/
def Obligations.PlacedWordIsFetchedAndRun : Prop :=
  ∀ (s : State) (nbits w : Nat) (i : Instr), decodeTableWord nbits w = some i →
    ∃ b : State, b.ir = tableByte nbits w ∧ b.cyc = 0 ∧ b.pins.sync = false ∧ b.pins.rw = true ∧
      b.pins.addr = s.pins.addr ∧ b.regs = s.regs ∧ b.ad = s.ad ∧ b.reason = .softwareBreak ∧ b.fault = none ∧
      step (s.withFetchWord nbits w) = exec i b

/-- R74 and R83: a state with no fault record has a next state, and a state with one has no step. That `step` answers
such a state with the recorded fault is the model's own form (log entry 1). -/
def Obligations.StepIsTotalExactlyWithoutAFault : Prop :=
  ∀ s : State,
    (s.fault = none → ∃ t, step s = .next t) ∧ (∀ f, s.fault = some f → step s = .fault f)

/-- R101: what a fetch step samples, in priority order Reset, NMI, IRQ, fetched opcode, and that no other step samples. -/
def Obligations.FetchStepSamplesInPriorityOrder : Prop :=
  ∀ s : State, s.fault = none → ∃ t, step s = .next t ∧
    (s.pins.sync = false →
      t.ir = s.ir ∧ t.reason = s.reason ∧ t.resetPending = s.resetPending ∧ t.nmiLast = s.nmiLast ∧
        t.nmiPending = s.nmiPending) ∧
    (s.pins.sync = true →
      let edge := s.nmiPending || (s.pins.nmi && !s.nmiLast)
      t.nmiLast = s.pins.nmi ∧ t.resetPending = false ∧ t.regs.pc = s.regs.pc ∧
      if s.resetPending = true then t.ir = 0x00#8 ∧ t.reason = .reset ∧ t.nmiPending = edge
      else if edge = true then t.ir = 0x00#8 ∧ t.reason = .nmi ∧ t.nmiPending = false
      else if s.pins.irq = true ∧ s.flag .i = false then t.ir = 0x00#8 ∧ t.reason = .irq ∧ t.nmiPending = false
      else t.ir = s.pins.data ∧ t.reason = .softwareBreak ∧ t.nmiPending = false)

/-- R68 and R105: a requested entry injects 0x00 whatever byte the host placed on DATA, so no fault is raised, the byte
influences nothing, and PC is not advanced. -/
def Obligations.EntryRequestDiscardsTheFetchedByte : Prop :=
  ∀ s : State, s.fault = none → s.pins.sync = true → s.EntryRequested →
    ∃ t, step s = .next t ∧ t.fault = none ∧ t.ir = 0x00#8 ∧ t.cyc = 1 ∧ t.regs.pc = s.regs.pc ∧
      ∀ v, step (s.setData v) = .next (t.setData v)

/-- R84: a step that is no fetch step does not read IRQ or NMI: with any levels on the two lines it gives the same state,
but for the lines themselves. -/
def Obligations.LinesAreReadAtFetchStepsOnly : Prop :=
  ∀ s : State, s.fault = none → s.pins.sync = false → ∃ t, step s = .next t ∧
    ∀ irq nmi, step ((s.setIRQ irq).setNMI nmi) = .next ((t.setIRQ irq).setNMI nmi)

/-- R102: a line held at 1 gives no second NMI. From a state that has seen the line at 1 and has no NMI pending, inside
an NMI entry or not, and under any host that never deasserts the line, no later fetch step takes an NMI entry: t is any
state of the run, s itself among them, and u the state the next step leaves. A step that is no fetch step keeps the
entry reason, so an NMI entry in flight runs on. -/
def Obligations.HeldNmiLineIsNotTakenAgain : Prop :=
  ∀ (s t u : State) (turns : List (List HostAction)) (turn : List HostAction),
    s.pins.nmi = true → s.nmiLast = true → s.nmiPending = false →
    (∀ h ∈ turns, HostAction.setNMI false ∉ h) → HostAction.setNMI false ∉ turn →
    s.runTurns turns = .next t → t.cycle turn = .next u →
    u.nmiLast = true ∧ u.nmiPending = false ∧
      (t.pins.sync = true → u.reason ≠ .nmi) ∧ (t.pins.sync = false → u.reason = t.reason)

/-- R26 and R78: a fetch step counts from 0, and every step that does not fault adds 1. -/
def Obligations.CycleIndexCountsFromTheFetchStep : Prop :=
  ∀ s : State, s.fault = none → ∃ t, step s = .next t ∧
    t.cyc = (if s.pins.sync = true then 0 else s.cyc) + (if t.fault = none then 1 else 0)

/-- R31: the state machine. Fetch goes to Executing(0x00, 1) or is stuck at cycle 0; Executing(0x00, k) goes on to k +
1, the final micro-step back to Fetch; any other pair is stuck; a stuck state has no step (it answers its record: log
entry 1). -/
def Obligations.EngineCyclesThroughItsPhases : Prop :=
  ∀ s : State,
    (s.phase = .fetch → ∃ t, step s = .next t ∧
      (t.phase = .executing 0x00#8 1 ∨
        ∃ op, op ≠ 0x00#8 ∧ t.phase = .stuck (.unimplementedInstruction op 0))) ∧
    (∀ k, k ≤ 5 → s.phase = .executing 0x00#8 k →
      ∃ t, step s = .next t ∧ t.phase = .executing 0x00#8 (k + 1)) ∧
    (s.phase = .executing 0x00#8 6 → ∃ t, step s = .next t ∧ t.phase = .fetch) ∧
    (∀ op k, (op ≠ 0x00#8 ∨ 7 ≤ k) → s.phase = .executing op k → ∃ t, step s = .next t ∧
      t.phase = .stuck (.unimplementedInstruction op k)) ∧
    (∀ f, s.phase = .stuck f → step s = .fault f)

/-! ### Opcode 0x00, micro-step by micro-step

Each statement gives the whole next state, so it is the frame of the micro-step too: a field it does not name keeps its
value. The last clause is the bus cycle left when phases 1 and 2 have set SYNC to 0 and RW to 1 (of a state with a fault
record, which `step` never dispatches, it is the pin state only: log entry 14). -/

/-- R90: (0x00, 0), the dummy fetch; the byte the host delivers for it changes nothing. -/
def Obligations.BrkCycleZeroAssertsPc : Prop :=
  ∀ s : State, s.cyc = 0 → ∃ t, exec .brk s = .next t ∧
    t = { s with pins := { s.pins with addr := s.regs.pc }, cyc := 1 } ∧
    (s.pins.rw = true → s.pins.sync = false → t.busCycle = ⟨.read, s.regs.pc, s.pins.data, false⟩) ∧
    ∀ v, exec .brk (t.setData v) = exec .brk t

/-- R91: (0x00, 1), push the high byte of PC, which a SoftwareBreak has advanced. -/
def Obligations.BrkCycleOnePushesPcHigh : Prop :=
  ∀ s : State, s.cyc = 1 →
    let pc := if s.reason = .softwareBreak then s.regs.pc + 1#16 else s.regs.pc
    let sp := s.regs.s - 1#8
    let a := 0x0100#16 ||| sp.setWidth 16
    ∃ t, exec .brk s = .next t ∧
      t = { s with
        pins := { s.pins with
          addr := a, data := pc.extractLsb' 8 8, rw := if s.reason = .reset then s.pins.rw else false }
        regs := { s.regs with s := sp, pc := pc }
        cyc := 2 } ∧
      (s.pins.rw = true → s.pins.sync = false →
        t.busCycle = ⟨if s.reason = .reset then .read else .write, a, pc.extractLsb' 8 8, false⟩)

/-- R92: (0x00, 2), push the low byte of PC. -/
def Obligations.BrkCycleTwoPushesPcLow : Prop :=
  ∀ s : State, s.cyc = 2 →
    let sp := s.regs.s - 1#8
    let a := 0x0100#16 ||| sp.setWidth 16
    ∃ t, exec .brk s = .next t ∧
      t = { s with
        pins := { s.pins with
          addr := a, data := s.regs.pc.extractLsb' 0 8, rw := if s.reason = .reset then s.pins.rw else false }
        regs := { s.regs with s := sp }
        cyc := 3 } ∧
      (s.pins.rw = true → s.pins.sync = false →
        t.busCycle = ⟨if s.reason = .reset then .read else .write, a, s.regs.pc.extractLsb' 0 8, false⟩)

/-- R93: (0x00, 3), push the image of P as it was, select the vector and set I. -/
def Obligations.BrkCycleThreePushesStatus : Prop :=
  ∀ s : State, s.cyc = 3 →
    let sp := s.regs.s - 1#8
    let a := 0x0100#16 ||| sp.setWidth 16
    let image := s.readP ||| 0x20#8 ||| (if s.reason = .softwareBreak then 0x10#8 else 0x00#8)
    ∃ t, exec .brk s = .next t ∧
      t = { s with
        pins := { s.pins with addr := a, data := image, rw := if s.reason = .reset then s.pins.rw else false }
        regs := { s.regs with s := sp, p := s.readP ||| 0x04#8 }
        ad := vector s.reason
        cyc := 4 } ∧
      t.readP = s.readP ||| 0x04#8 ∧
      (s.pins.rw = true → s.pins.sync = false →
        t.busCycle = ⟨if s.reason = .reset then .read else .write, a, image, false⟩)

/-- R94: (0x00, 4), read the vector's low byte. -/
def Obligations.BrkCycleFourReadsVectorLow : Prop :=
  ∀ s : State, s.cyc = 4 → ∃ t, exec .brk s = .next t ∧
    t = { s with pins := { s.pins with addr := s.ad }, ad := s.ad + 1#16, cyc := 5 } ∧
    (s.pins.rw = true → s.pins.sync = false → t.busCycle = ⟨.read, s.ad, s.pins.data, false⟩)

/-- R95: (0x00, 5), read the vector's high byte and capture the low byte. -/
def Obligations.BrkCycleFiveReadsVectorHigh : Prop :=
  ∀ s : State, s.cyc = 5 → ∃ t, exec .brk s = .next t ∧
    t = { s with pins := { s.pins with addr := s.ad }, ad := s.pins.data.setWidth 16, cyc := 6 } ∧
    t.ad.extractLsb' 0 8 = s.pins.data ∧ t.ad.extractLsb' 8 8 = 0x00#8 ∧
    (s.pins.rw = true → s.pins.sync = false → t.busCycle = ⟨.read, s.ad, s.pins.data, false⟩)

/-- R96: (0x00, 6), load PC and re-arm the fetch. -/
def Obligations.BrkCycleSixLoadsPc : Prop :=
  ∀ s : State, s.cyc = 6 →
    let pc : Addr := s.pins.data ++ s.ad.extractLsb' 0 8
    ∃ t, exec .brk s = .next t ∧
      t = { s with pins := { s.pins with addr := pc, sync := true }, regs := { s.regs with pc := pc }, cyc := 7 } ∧
      (s.pins.rw = true → t.busCycle = ⟨.read, pc, s.pins.data, true⟩)

/-- R77 and R81 for the opcode 0x00: past cycle index 6 there is no dispatch entry, and the fault is recorded in
the next state (log entry 1). -/
def Obligations.BrkPastItsLastCycleRecordsTheFault : Prop :=
  ∀ s : State, 7 ≤ s.cyc →
    exec .brk s = .next { s with fault := some (.unimplementedInstruction s.ir s.cyc) }

/-- The frame of BRK, whichever micro-step runs. The destination registers are S, PC, AD and P.I; A, X, Y, the other
flags, IR, REASON, the latches, IRQ and NMI are unchanged, FAULT and SYNC too where the rules do not name them, and
DATA is unchanged except by a push. The one byte of memory that can change is the byte at the stack address of the
decremented S: a step that begins a write cycle asserts it (R82, R91-R93; what the reference host's memory then holds
is RoundChangesOnlyTheWrittenByte). -/
def Obligations.BrkChangesOnlyItsDestinations : Prop :=
  ∀ s : State, ∃ t, exec .brk s = .next t ∧
    t.regs.a = s.regs.a ∧ t.regs.x = s.regs.x ∧ t.regs.y = s.regs.y ∧
    (∀ f : Flag, f ≠ .i → t.flag f = s.flag f) ∧
    t.ir = s.ir ∧ t.reason = s.reason ∧ t.resetPending = s.resetPending ∧ t.nmiLast = s.nmiLast ∧
    t.nmiPending = s.nmiPending ∧ t.pins.irq = s.pins.irq ∧ t.pins.nmi = s.pins.nmi ∧
    ((s.cyc = 0 ∨ 4 ≤ s.cyc) → t.pins.data = s.pins.data ∧ t.pins.rw = s.pins.rw ∧ t.regs.s = s.regs.s) ∧
    (s.cyc ≠ 1 → s.cyc ≠ 6 → t.regs.pc = s.regs.pc) ∧
    ((s.cyc < 3 ∨ 5 < s.cyc) → t.ad = s.ad) ∧
    (s.cyc ≠ 3 → t.readP = s.readP) ∧ (s.cyc ≠ 6 → t.pins.sync = s.pins.sync) ∧
    (s.cyc ≤ 6 → t.fault = s.fault) ∧
    (s.pins.rw = true → t.pins.rw = false → t.pins.addr = stackAddress (s.regs.s - 1#8))

/-! ### Whole-machine rules -/

/-- R77: the step records a fault exactly when (IR, CYC) is outside the dispatch table at dispatch, in the
next state (log entry 1). -/
def Obligations.FaultExactlyOffTheDispatchTable : Prop :=
  ∀ s : State, s.fault = none → ∃ t, step s = .next t ∧
    (t.fault = none ↔ s.beginStep.ir = 0x00#8 ∧ s.beginStep.cyc ≤ 6)

/-- R81: the fault record, the effects of phases 1 and 2 that remain, and that no later step exists. The form, a next
state that holds the record and then Outcome.fault, is the model's (log entry 1). -/
def Obligations.UnimplementedPairIsRecordedAndFatal : Prop :=
  ∀ s : State, s.fault = none → (s.beginStep.ir ≠ 0x00#8 ∨ 7 ≤ s.beginStep.cyc) →
    ∃ t, step s = .next t ∧
      t = { s.beginStep with
        fault := some (.unimplementedInstruction s.beginStep.ir s.beginStep.cyc) } ∧
      t.pins = { s.pins with sync := false, rw := true } ∧ t.regs = s.regs ∧ t.ad = s.ad ∧
      (s.pins.sync = true → t.cyc = 0) ∧
      step t = .fault (.unimplementedInstruction t.ir t.cyc)

/-- R67, R69 and R108: every opcode but 0x00 that is fetched with no entry requested faults at its first step, at cycle 0,
and leaves PC at its own address; the record stands in the next state (log entry 1). -/
def Obligations.EveryOpcodeButZeroFaultsAtItsFetch : Prop :=
  ∀ s : State, s.fault = none → s.pins.sync = true → ¬ s.EntryRequested → s.pins.data ≠ 0x00#8 →
    ∃ t, step s = .next t ∧ t.fault = some (.unimplementedInstruction s.pins.data 0) ∧ t.ir = s.pins.data ∧
      t.cyc = 0 ∧ t.regs = s.regs ∧ t.pins = { s.pins with sync := false, rw := true } ∧
      t.resetPending = s.resetPending ∧ t.nmiPending = s.nmiPending ∧ t.nmiLast = s.pins.nmi

/-- R97: a step leaves RW = 0 exactly when it ran a push and the entry is no reset. -/
def Obligations.WriteCyclesArePushesOfNonResetEntries : Prop :=
  ∀ s : State, s.fault = none → ∃ t, step s = .next t ∧
    (t.pins.rw = false ↔ t.RanPush ∧ t.reason ≠ .reset)

/-- R80 and R86: SYNC is 1 at power-on and after the final micro-step, and 0 after every other step. -/
def Obligations.SyncMarksTheFinalMicroStep : Prop :=
  State.reset.pins.sync = true ∧
  ∀ s : State, s.fault = none → ∃ t, step s = .next t ∧ (t.pins.sync = true ↔ t.Ran 6)

/-- R20: S is decremented by each of the three pushes, which assert the stack address of the new S, and by nothing
else. -/
def Obligations.StackPointerMovesByPushesOnly : Prop :=
  ∀ s : State, s.fault = none → ∃ t, step s = .next t ∧
    (t.RanPush → t.regs.s = s.regs.s - 1#8 ∧ t.pins.addr = 0x0100#16 ||| t.regs.s.setWidth 16) ∧
    (¬ t.RanPush → t.regs.s = s.regs.s)

/-- R24: PC moves by one at cycle 1 of a SoftwareBreak, is loaded at cycle 6, and otherwise keeps its value. -/
def Obligations.ProgramCounterMovesAtCyclesOneAndSix : Prop :=
  ∀ s : State, s.fault = none → ∃ t, step s = .next t ∧
    t.regs.pc =
      if t.Ran 1 ∧ t.reason = .softwareBreak then s.regs.pc + 1#16
      else if t.Ran 6 then s.pins.data ++ s.ad.extractLsb' 0 8
      else s.regs.pc

/-- R27: AD is written at cycles 3, 4 and 5 and keeps its value otherwise. -/
def Obligations.ScratchRegisterIsWrittenAtCyclesThreeToFive : Prop :=
  ∀ s : State, s.fault = none → ∃ t, step s = .next t ∧
    t.ad =
      if t.Ran 3 then vector t.reason
      else if t.Ran 4 then s.ad + 1#16
      else if t.Ran 5 then s.pins.data.setWidth 16
      else s.ad

/-- R12, R13, R16 and R82: a step never changes IRQ or NMI, writes DATA only by a push, and writes ADDR unless it
faults. -/
def Obligations.PinsHoldWhatNoMicroStepAsserts : Prop :=
  ∀ s : State, s.fault = none → ∃ t, step s = .next t ∧
    t.pins.irq = s.pins.irq ∧ t.pins.nmi = s.pins.nmi ∧
    (¬ t.RanPush → t.pins.data = s.pins.data) ∧ (t.fault ≠ none → t.pins.addr = s.pins.addr)

/-- R23: cycle 3 sets I, nothing clears it, and no step changes another flag. -/
def Obligations.OnlyInterruptDisableIsEverWritten : Prop :=
  ∀ s : State, s.fault = none → ∃ t, step s = .next t ∧
    (∀ f : Flag, f ≠ .i → t.flag f = s.flag f) ∧
    (t.Ran 3 → t.flag .i = true) ∧ (¬ t.Ran 3 → t.flag .i = s.flag .i)

/-- R22: bit 5 of P reads 1 and bit 4 reads 0 in every state and after every write of P and every step, and the pushed
image has bit 5 set and bit 4 set for SoftwareBreak only. -/
def Obligations.ReservedStatusBitsAreFixed : Prop :=
  ∀ s : State,
    s.readP.getLsbD 5 = true ∧ s.readP.getLsbD 4 = false ∧
    (∀ v : Byte, (s.writeP v).readP.getLsbD 5 = true ∧ (s.writeP v).readP.getLsbD 4 = false ∧
      ∀ k, k ≠ 4 → k ≠ 5 → (s.writeP v).readP.getLsbD k = v.getLsbD k) ∧
    (∀ r : EntryReason, (pushedImage r s.readP).getLsbD 5 = true ∧
      (pushedImage r s.readP).getLsbD 4 = decide (r = .softwareBreak) ∧
      ∀ k, k ≠ 4 → k ≠ 5 → (pushedImage r s.readP).getLsbD k = s.readP.getLsbD k)

/-- R21: the layout of P, which is one byte: the six flags, the stored bits they come from, and the two reserved bits. -/
def Obligations.FlagsStandAtTheirPositions : Prop :=
  ∀ s : State,
    s.readP.getLsbD 0 = s.flag .c ∧ s.readP.getLsbD 1 = s.flag .z ∧ s.readP.getLsbD 2 = s.flag .i ∧
    s.readP.getLsbD 3 = s.flag .d ∧ s.readP.getLsbD 4 = false ∧ s.readP.getLsbD 5 = true ∧
    s.readP.getLsbD 6 = s.flag .v ∧ s.readP.getLsbD 7 = s.flag .n ∧
    s.flag .c = s.regs.p.getLsbD 0 ∧ s.flag .z = s.regs.p.getLsbD 1 ∧ s.flag .i = s.regs.p.getLsbD 2 ∧
    s.flag .d = s.regs.p.getLsbD 3 ∧ s.flag .v = s.regs.p.getLsbD 6 ∧ s.flag .n = s.regs.p.getLsbD 7

/-- R19: A, X and Y are neither read nor written by a step: with other values in them it gives the same state, but for
them. -/
def Obligations.IndexRegistersAreInert : Prop :=
  ∀ s : State, s.fault = none → ∃ t, step s = .next t ∧
    t.regs.a = s.regs.a ∧ t.regs.x = s.regs.x ∧ t.regs.y = s.regs.y ∧
    ∀ a x y, step { s with regs := { s.regs with a := a, x := x, y := y } } =
      .next { t with regs := { t.regs with a := a, x := x, y := y } }

/-- R89: the vector selection function, and the little-endian pair of addresses it names. -/
def Obligations.VectorOfEachEntryReason : Prop :=
  vector .reset = 0xFFFC#16 ∧ vector .nmi = 0xFFFA#16 ∧ vector .irq = 0xFFFE#16 ∧
  vector .softwareBreak = 0xFFFE#16 ∧ vector .reset + 1#16 = 0xFFFD#16 ∧ vector .nmi + 1#16 = 0xFFFB#16 ∧
  vector .irq + 1#16 = 0xFFFF#16

/-! ### The whole entry sequence, under any host -/

/-- R99: the bus cycles left by the seven steps of one 0x00 sequence, whatever the host does between them. lo and hi
are the bytes on DATA when cycles 5 and 6 run, so a vector the host changes between the two reads gives one byte of
each (R54, R126). -/
def Obligations.EntrySequenceLeavesItsSevenBusCycles : Prop :=
  ∀ (s : State) (h1 h2 h3 h4 h5 h6 h7 : List HostAction),
    s.fault = none → s.pins.sync = true →
    ((s.hostTurn h1).EntryRequested ∨ (s.hostTurn h1).pins.data = 0x00#8) →
    ∃ s1 s2 s3 s4 s5 s6 s7 : State,
      s.cycle h1 = .next s1 ∧ s1.cycle h2 = .next s2 ∧ s2.cycle h3 = .next s3 ∧ s3.cycle h4 = .next s4 ∧
      s4.cycle h5 = .next s5 ∧ s5.cycle h6 = .next s6 ∧ s6.cycle h7 = .next s7 ∧
      let pr := if s1.reason = .softwareBreak then s.regs.pc + 1#16 else s.regs.pc
      let push : BusKind := if s1.reason = .reset then .read else .write
      let image := s.readP ||| 0x20#8 ||| (if s1.reason = .softwareBreak then 0x10#8 else 0x00#8)
      let lo := (s5.hostTurn h6).pins.data
      let hi := (s6.hostTurn h7).pins.data
      s1.busCycle = ⟨.read, s.regs.pc, (s.hostTurn h1).pins.data, false⟩ ∧
      s2.busCycle = ⟨push, 0x0100#16 ||| (s.regs.s - 1#8).setWidth 16, pr.extractLsb' 8 8, false⟩ ∧
      s3.busCycle = ⟨push, 0x0100#16 ||| (s.regs.s - 2#8).setWidth 16, pr.extractLsb' 0 8, false⟩ ∧
      s4.busCycle = ⟨push, 0x0100#16 ||| (s.regs.s - 3#8).setWidth 16, image, false⟩ ∧
      s5.busCycle = ⟨.read, vector s1.reason, (s4.hostTurn h5).pins.data, false⟩ ∧
      s6.busCycle = ⟨.read, vector s1.reason + 1#16, (s5.hostTurn h6).pins.data, false⟩ ∧
      s7.busCycle = ⟨.read, hi ++ lo, hi, true⟩

/-- R87 and R107: the net effect of one 0x00 sequence under any host: S down by three, I set, PC the two delivered vector
bytes, everything else of the register file kept, and the core at the opcode fetch of the new PC. -/
def Obligations.EntrySequenceNetEffect : Prop :=
  ∀ (s : State) (h1 h2 h3 h4 h5 h6 h7 : List HostAction),
    s.fault = none → s.pins.sync = true →
    ((s.hostTurn h1).EntryRequested ∨ (s.hostTurn h1).pins.data = 0x00#8) →
    ∃ s1 s5 s6 s7 : State,
      s.runTurns [h1] = .next s1 ∧ s.runTurns [h1, h2, h3, h4, h5] = .next s5 ∧
      s.runTurns [h1, h2, h3, h4, h5, h6] = .next s6 ∧ s.runTurns [h1, h2, h3, h4, h5, h6, h7] = .next s7 ∧
      let lo := (s5.hostTurn h6).pins.data
      let hi := (s6.hostTurn h7).pins.data
      s7.regs = { s.regs with s := s.regs.s - 3#8, p := s.readP ||| 0x04#8, pc := hi ++ lo } ∧
      s7.pins.addr = hi ++ lo ∧ s7.pins.rw = true ∧ s7.pins.sync = true ∧
      s7.ir = 0x00#8 ∧ s7.cyc = 7 ∧ s7.ad = lo.setWidth 16 ∧ s7.fault = none ∧
      s7.reason = s1.reason ∧ s7.resetPending = false ∧ s7.nmiLast = (s.hostTurn h1).pins.nmi ∧
      s7.nmiPending = s1.nmiPending

/-- R121: the state after the reset sequence, under any host, and that it left no write cycle. lo, hi and n1 are as R121
defines them. -/
def Obligations.StateAfterTheResetSequence : Prop :=
  ∀ h1 h2 h3 h4 h5 h6 h7 : List HostAction,
    ∃ s5 s6 s7 : State,
      State.reset.runTurns [h1, h2, h3, h4, h5] = .next s5 ∧
      State.reset.runTurns [h1, h2, h3, h4, h5, h6] = .next s6 ∧
      State.reset.runTurns [h1, h2, h3, h4, h5, h6, h7] = .next s7 ∧
      (let lo := (s5.hostTurn h6).pins.data
       let hi := (s6.hostTurn h7).pins.data
       let n1 := (State.reset.hostTurn h1).pins.nmi
       s7 =
        { pins := { addr := hi ++ lo, data := hi, rw := true, sync := true,
                    irq := (s6.hostTurn h7).pins.irq, nmi := (s6.hostTurn h7).pins.nmi }
          regs := { a := 0x00#8, x := 0x00#8, y := 0x00#8, s := 0xFD#8, p := 0x26#8, pc := hi ++ lo }
          ir := 0x00#8, cyc := 7, ad := lo.setWidth 16, reason := .reset
          resetPending := false, nmiLast := n1, nmiPending := n1, fault := none }) ∧
      ∀ k ≤ 7, ∀ u, State.reset.runTurns ([h1, h2, h3, h4, h5, h6, h7].take k) = .next u → u.pins.rw = true

/-- R125 and R129: inside the sequence the next fetch state comes after exactly the micro-steps that are left,
whatever the host does; so a request waits at most that long. -/
def Obligations.SequenceReachesTheNextFetchInTime : Prop :=
  ∀ (s : State) (turns : List (List HostAction)),
    s.fault = none → s.pins.sync = false → s.ir = 0x00#8 → 1 ≤ s.cyc → s.cyc ≤ 6 → turns.length = 7 - s.cyc →
    ∃ t, s.runTurns turns = .next t ∧ t.pins.sync = true ∧ t.fault = none ∧ t.cyc = 7 ∧ t.pins.addr = t.regs.pc

/-! ### Invariants -/

/-- The power-on state has the form of a reachable state. -/
def Obligations.ResetHasTheReachableForm : Prop := State.reset.ReachableForm

/-- A host turn keeps the form of a reachable state, whatever the host does. -/
def Obligations.HostTurnKeepsTheReachableForm : Prop :=
  ∀ (s : State) (turn : List HostAction), s.ReachableForm → (s.hostTurn turn).ReachableForm

/-- Every step keeps the form of a reachable state: the reserved bits of P, A = X = Y = 0, the phase, the direction of
the bus, the entry state, ADDR and AD (R19, R22, R23, R26, R27, R31, R97, R99, R108, R118). -/
def Obligations.StepKeepsTheReachableForm : Prop :=
  ∀ s t : State, s.ReachableForm → step s = .next t → t.ReachableForm

/-- R118: under any host, no state reached from power-on is inside an IRQ entry. -/
def Obligations.IrqEntryIsUnreachableFromPowerOn : Prop :=
  ∀ (turns : List (List HostAction)) (t : State),
    State.reset.runTurns turns = .next t → t.reason ≠ .irq

/-- R108 and R19: under any host, a fault record of a state reached from power-on is (IR, 0) with IR ≠ 0x00, and A, X
and Y are still 0x00. -/
def Obligations.ReachableFaultsAreAtCycleZero : Prop :=
  ∀ (turns : List (List HostAction)) (t : State), State.reset.runTurns turns = .next t →
    (t.fault = none ∨ (t.fault = some (.unimplementedInstruction t.ir 0) ∧ t.ir ≠ 0x00#8)) ∧
      t.regs.a = 0x00#8 ∧ t.regs.x = 0x00#8 ∧ t.regs.y = 0x00#8

/-! ### The reference host -/

/-- R39, R40 and R62: one round of the reference host sets the lines, answers a read with the byte at ADDR or commits
DATA to the byte at ADDR, and steps. A read changes no memory, and a write changes no byte outside the asserted
address. -/
def Obligations.RoundChangesOnlyTheWrittenByte : Prop :=
  ∀ (h : RefHost) (l : Lines), h.mem.wf = true → h.core.fault = none →
    ∃ g, h.round l = .next g ∧
      (h.core.pins.rw = true → g.mem = h.mem ∧
        step (((h.core.setIRQ l.irq).setNMI l.nmi).setData (h.mem.read h.core.pins.addr).toNat) = .next g.core) ∧
      (h.core.pins.rw = false → step ((h.core.setIRQ l.irq).setNMI l.nmi) = .next g.core ∧
        ∀ a : Addr, g.mem.read a = if a = h.core.pins.addr then h.core.pins.data else h.mem.read a)

/-- The memory of the model's reference host keeps its canonical form over any schedule, and starts in it when no byte is
listed. The form is the model's choice and no rule of the spec (log entry 10): R62 gives a memory of 65,536 bytes, and
the model writes it as a list of cells that is equal for equal memories. -/
def Obligations.RefHostKeepsItsMemoryCanonical : Prop :=
  (RefHost.powerOn []).mem.wf = true ∧
  ∀ (h : RefHost) (ls : List Lines), h.mem.wf = true → (h.run ls).mem.wf = true

/-- R120 to R122: under the reference host, seven rounds from power-on load PC from the bytes at 0xFFFC and 0xFFFD and
change no memory, whatever the lines do. -/
def Obligations.ResetUnderTheReferenceHost : Prop :=
  ∀ (m : Memory) (l1 l2 l3 l4 l5 l6 l7 : Lines),
    let g := (RefHost.powerOn m).run [l1, l2, l3, l4, l5, l6, l7]
    g.mem = m ∧ g.core.regs.pc = m.read 0xFFFD#16 ++ m.read 0xFFFC#16 ∧ g.core.pins.addr = g.core.regs.pc ∧
      g.core.pins.sync = true ∧ g.core.regs.s = 0xFD#8 ∧ g.core.readP = 0x26#8 ∧ g.core.fault = none ∧
      g.core.nmiPending = l1.nmi

/-- R87 under the reference host: a BRK fetched at PC with no entry requested writes PC + 1, high byte first, and the
image of P with bit 4 set below S, changes no other byte of memory, and continues at the address held at 0xFFFE and
0xFFFF. -/
def Obligations.BreakUnderTheReferenceHost : Prop :=
  ∀ (h : RefHost) (l1 l2 l3 l4 l5 l6 l7 : Lines),
    h.mem.wf = true → h.core.fault = none → h.core.pins.sync = true → h.core.pins.rw = true →
    h.mem.read h.core.pins.addr = 0x00#8 →
    ¬ ((h.core.setIRQ l1.irq).setNMI l1.nmi).EntryRequested →
    let g := h.run [l1, l2, l3, l4, l5, l6, l7]
    let pr := h.core.regs.pc + 1#16
    let s := h.core.regs.s
    g.core.regs =
      { h.core.regs with s := s - 3#8, p := h.core.readP ||| 0x04#8, pc := h.mem.read 0xFFFF#16 ++ h.mem.read 0xFFFE#16 } ∧
    g.core.pins.addr = g.core.regs.pc ∧ g.core.pins.sync = true ∧ g.core.pins.rw = true ∧ g.core.fault = none ∧
    ∀ a : Addr, g.mem.read a =
      if a = stackAddress (s - 1#8) then pr.extractLsb' 8 8
      else if a = stackAddress (s - 2#8) then pr.extractLsb' 0 8
      else if a = stackAddress (s - 3#8) then h.core.readP ||| 0x30#8
      else h.mem.read a

/-- R131: the BRK loop. Both vectors point at a 0x00 byte at b, and no NMI edge comes: after step 7 + 7n the core is
at the fetch of b with S = 0xFD - 3n and P = 0x26, and the last BRK has left its three bytes. NMI is sampled at the fetch
steps only, which are rounds 1, 8, 15, ... (entries 0, 7, 14, ... of the schedule), and power-on counts as a 0 (R102), so
no edge comes exactly when NMI is 0 at each of them; at every other round NMI is free, and IRQ is free at all. R131 does
not say so, but b must lie outside the stack page, or a push can overwrite the BRK byte (R127): log entry 12. -/
def Obligations.BreakLoopDescendsTheStack : Prop :=
  ∀ (m : Memory) (b : Addr) (n : Nat) (ls : List Lines),
    m.wf = true → m.read 0xFFFC#16 = lowByte b → m.read 0xFFFD#16 = highByte b →
    m.read 0xFFFE#16 = lowByte b → m.read 0xFFFF#16 = highByte b → m.read b = 0x00#8 → highByte b ≠ 0x01#8 →
    ls.length = 7 + 7 * n → (∀ k l, ls[7 * k]? = some l → l.nmi = false) →
    let g := (RefHost.powerOn m).run ls
    let s := 0xFD#8 - BitVec.ofNat 8 (3 * n)
    g.core.regs.pc = b ∧ g.core.pins.addr = b ∧ g.core.pins.sync = true ∧ g.core.regs.s = s ∧
      g.core.readP = 0x26#8 ∧ g.core.fault = none ∧
      (1 ≤ n → g.mem.read (stackAddress (s + 2#8)) = highByte (b + 1#16) ∧
        g.mem.read (stackAddress (s + 1#8)) = lowByte (b + 1#16) ∧ g.mem.read (stackAddress s) = 0x36#8)
end

