-- ==== Sys2Proof/Laws/Memory.lean ====
section
/-! SUPPORT. The laws of the reference host's memory: a read after a write, a write elsewhere, and the canonical form. -/

namespace Sys2Proof.Machine

/-- In a canonical memory whose cells start at `lo`, an address below `lo` is unlisted. -/
theorem Memory.readAt_below {m : Memory} {lo a : Nat} (h : Memory.wfFrom lo m = true) (ha : a < lo) :
    Memory.readAt m a = unlistedByte := by
  induction m generalizing lo with
  | nil => rfl
  | cons c rest ih =>
    obtain ⟨b, w⟩ := c
    simp only [Memory.wfFrom, Bool.and_eq_true, decide_eq_true_eq] at h
    have hab : a ≠ b := by omega
    simp only [Memory.readAt, hab, if_false]
    exact ih h.2 (by omega)

/-- The canonical form above a bound holds above every lower bound. -/
theorem Memory.wfFrom_mono {m : Memory} {lo lo' : Nat} (h : Memory.wfFrom lo m = true) (hl : lo' ≤ lo) :
    Memory.wfFrom lo' m = true := by
  cases m with
  | nil => rfl
  | cons c rest =>
    obtain ⟨b, w⟩ := c
    simp only [Memory.wfFrom, Bool.and_eq_true, decide_eq_true_eq] at h ⊢
    exact ⟨⟨⟨by omega, h.1.1.2⟩, h.1.2⟩, h.2⟩

theorem Memory.wfFrom_writeAt {m : Memory} {lo a : Nat} {v : Byte} (h : Memory.wfFrom lo m = true) (hlo : lo ≤ a)
    (ha : a < Config.addressCount) : Memory.wfFrom lo (Memory.writeAt m a v) = true := by
  induction m generalizing lo with
  | nil =>
    by_cases hv : v = unlistedByte <;> simp [Memory.writeAt, Memory.wfFrom, hv, hlo, ha]
  | cons c rest ih =>
    obtain ⟨b, w⟩ := c
    have hc := h
    simp only [Memory.wfFrom, Bool.and_eq_true, decide_eq_true_eq] at h
    obtain ⟨⟨⟨hb, hbc⟩, hw⟩, hrest⟩ := h
    simp only [Memory.writeAt]
    split
    · split
      · exact hc
      · rename_i hab hv
        simp only [Memory.wfFrom, Bool.and_eq_true, decide_eq_true_eq]
        exact ⟨⟨⟨hlo, ha⟩, hv⟩, ⟨⟨⟨by omega, hbc⟩, hw⟩, hrest⟩⟩
    · split
      · split
        · exact Memory.wfFrom_mono hrest (by omega)
        · rename_i hab hv
          simp only [Memory.wfFrom, Bool.and_eq_true, decide_eq_true_eq]
          exact ⟨⟨⟨hlo, ha⟩, hv⟩, hab ▸ hrest⟩
      · simp only [Memory.wfFrom, Bool.and_eq_true, decide_eq_true_eq]
        exact ⟨⟨⟨hb, hbc⟩, hw⟩, ih hrest (by omega)⟩

/-- Every write keeps the canonical form. -/
theorem Memory.wf_write {m : Memory} (h : m.wf = true) (a : Addr) (v : Byte) : (m.write a v).wf = true :=
  Memory.wfFrom_writeAt h (Nat.zero_le _) a.isLt

theorem Memory.readAt_writeAt {m : Memory} {lo : Nat} (h : Memory.wfFrom lo m = true) (a b : Nat) (v : Byte) :
    Memory.readAt (Memory.writeAt m a v) b = if b = a then v else Memory.readAt m b := by
  induction m generalizing lo with
  | nil =>
    by_cases hv : v = unlistedByte <;> simp [Memory.writeAt, Memory.readAt, hv]
  | cons c rest ih =>
    obtain ⟨x, w⟩ := c
    simp only [Memory.wfFrom, Bool.and_eq_true, decide_eq_true_eq] at h
    have hbelow : ∀ y, y < x + 1 → Memory.readAt rest y = unlistedByte := fun y hy => Memory.readAt_below h.2 hy
    have ih' := ih h.2
    simp only [Memory.writeAt]
    by_cases hax : a < x
    · have hane : a ≠ x := by omega
      by_cases hv : v = unlistedByte
      · simp only [hax, if_true, hv, Memory.readAt]
        by_cases hba : b = a
        · subst hba; simp [hane, hbelow b (by omega)]
        · simp [hba]
      · simp [hax, hv, Memory.readAt]
    · by_cases hxa : a = x
      · subst hxa
        by_cases hv : v = unlistedByte
        · by_cases hba : b = a
          · subst hba; simp [hv, hbelow b (by omega)]
          · simp [hv, hba, Memory.readAt]
        · by_cases hba : b = a <;> simp [hv, hba, Memory.readAt]
      · simp only [hax, hxa, if_false, Memory.readAt, ih']
        by_cases hba : b = a
        · subst hba; simp [hxa]
        · simp [hba]

/-- A read after a write: the written byte at the written address, the old byte at every other. -/
theorem Memory.read_write {m : Memory} (h : m.wf = true) (a b : Addr) (v : Byte) :
    (m.write a v).read b = if b = a then v else m.read b := by
  simp [Memory.read, Memory.write, Memory.readAt_writeAt h, BitVec.toNat_inj]

/-- H_mem starts with a canonical memory when no byte is listed. -/
theorem Memory.wf_nil : Memory.wf [] = true := rfl

/-- Placing bytes keeps the canonical form. -/
theorem placeBytes_wf {m : Memory} (h : m.wf = true) (a : Addr) (vs : List Byte) : (placeBytes m a vs).1.wf = true := by
  induction vs generalizing m a with
  | nil => exact h
  | cons v vs ih => exact ih (Memory.wf_write h a v) _

/-- A listing assembles to a canonical memory. -/
theorem assembleFrom_wf {m : Memory} (h : m.wf = true) (a : Addr) (listing : List ListingLine) :
    (assembleFrom m a listing).wf = true := by
  induction listing generalizing m a with
  | nil => exact h
  | cons line rest ih =>
    cases line with
    | instr i => exact ih (placeBytes_wf h a _) _
    | bytes vs => exact ih (placeBytes_wf h a vs) _
    | org b => exact ih h b

/-- H_mem's service of a bus cycle, as one case split: a read changes DATA only, a write changes memory only. -/
theorem RefHost.service_eq (h : RefHost) :
    h.service =
      if h.core.pins.rw then
        { h with core := h.core.driveData (h.mem.read h.core.pins.addr) }
      else { h with mem := h.mem.write h.core.pins.addr h.core.pins.data } := by
  cases hrw : h.core.pins.rw <;> simp [RefHost.service, State.busCycle, State.setData, hrw]

/-- H_mem's service keeps the canonical form. -/
theorem RefHost.service_wf {h : RefHost} (hw : h.mem.wf = true) : h.service.mem.wf = true := by
  rw [RefHost.service_eq]
  split
  · exact hw
  · exact Memory.wf_write hw _ _

end Sys2Proof.Machine
end

