-- ==== Sys2Proof/Laws/State.lean ====
section
/-! SUPPORT. One lemma per field per update of State: what the update leaves in the field. No later proof unfolds a record
update of these. -/

namespace Sys2Proof.Machine

@[simp] theorem State.assertAddress_pins (s : State) (a : Addr) : (s.assertAddress a).pins = { s.pins with addr := a } := rfl
@[simp] theorem State.assertAddress_regs (s : State) (a : Addr) : (s.assertAddress a).regs = s.regs := rfl
@[simp] theorem State.assertAddress_ir (s : State) (a : Addr) : (s.assertAddress a).ir = s.ir := rfl
@[simp] theorem State.assertAddress_cyc (s : State) (a : Addr) : (s.assertAddress a).cyc = s.cyc := rfl
@[simp] theorem State.assertAddress_ad (s : State) (a : Addr) : (s.assertAddress a).ad = s.ad := rfl
@[simp] theorem State.assertAddress_reason (s : State) (a : Addr) : (s.assertAddress a).reason = s.reason := rfl
@[simp] theorem State.assertAddress_resetPending (s : State) (a : Addr) : (s.assertAddress a).resetPending = s.resetPending := rfl
@[simp] theorem State.assertAddress_nmiLast (s : State) (a : Addr) : (s.assertAddress a).nmiLast = s.nmiLast := rfl
@[simp] theorem State.assertAddress_nmiPending (s : State) (a : Addr) : (s.assertAddress a).nmiPending = s.nmiPending := rfl
@[simp] theorem State.assertAddress_fault (s : State) (a : Addr) : (s.assertAddress a).fault = s.fault := rfl

@[simp] theorem State.driveData_pins (s : State) (v : Byte) : (s.driveData v).pins = { s.pins with data := v } := rfl
@[simp] theorem State.driveData_regs (s : State) (v : Byte) : (s.driveData v).regs = s.regs := rfl
@[simp] theorem State.driveData_ir (s : State) (v : Byte) : (s.driveData v).ir = s.ir := rfl
@[simp] theorem State.driveData_cyc (s : State) (v : Byte) : (s.driveData v).cyc = s.cyc := rfl
@[simp] theorem State.driveData_ad (s : State) (v : Byte) : (s.driveData v).ad = s.ad := rfl
@[simp] theorem State.driveData_reason (s : State) (v : Byte) : (s.driveData v).reason = s.reason := rfl
@[simp] theorem State.driveData_resetPending (s : State) (v : Byte) : (s.driveData v).resetPending = s.resetPending := rfl
@[simp] theorem State.driveData_nmiLast (s : State) (v : Byte) : (s.driveData v).nmiLast = s.nmiLast := rfl
@[simp] theorem State.driveData_nmiPending (s : State) (v : Byte) : (s.driveData v).nmiPending = s.nmiPending := rfl
@[simp] theorem State.driveData_fault (s : State) (v : Byte) : (s.driveData v).fault = s.fault := rfl

@[simp] theorem State.setDirection_pins (s : State) (b : Bool) : (s.setDirection b).pins = { s.pins with rw := b } := rfl
@[simp] theorem State.setDirection_regs (s : State) (b : Bool) : (s.setDirection b).regs = s.regs := rfl
@[simp] theorem State.setDirection_ir (s : State) (b : Bool) : (s.setDirection b).ir = s.ir := rfl
@[simp] theorem State.setDirection_cyc (s : State) (b : Bool) : (s.setDirection b).cyc = s.cyc := rfl
@[simp] theorem State.setDirection_ad (s : State) (b : Bool) : (s.setDirection b).ad = s.ad := rfl
@[simp] theorem State.setDirection_reason (s : State) (b : Bool) : (s.setDirection b).reason = s.reason := rfl
@[simp] theorem State.setDirection_resetPending (s : State) (b : Bool) : (s.setDirection b).resetPending = s.resetPending := rfl
@[simp] theorem State.setDirection_nmiLast (s : State) (b : Bool) : (s.setDirection b).nmiLast = s.nmiLast := rfl
@[simp] theorem State.setDirection_nmiPending (s : State) (b : Bool) : (s.setDirection b).nmiPending = s.nmiPending := rfl
@[simp] theorem State.setDirection_fault (s : State) (b : Bool) : (s.setDirection b).fault = s.fault := rfl

@[simp] theorem State.setSync_pins (s : State) (b : Bool) : (s.setSync b).pins = { s.pins with sync := b } := rfl
@[simp] theorem State.setSync_regs (s : State) (b : Bool) : (s.setSync b).regs = s.regs := rfl
@[simp] theorem State.setSync_ir (s : State) (b : Bool) : (s.setSync b).ir = s.ir := rfl
@[simp] theorem State.setSync_cyc (s : State) (b : Bool) : (s.setSync b).cyc = s.cyc := rfl
@[simp] theorem State.setSync_ad (s : State) (b : Bool) : (s.setSync b).ad = s.ad := rfl
@[simp] theorem State.setSync_reason (s : State) (b : Bool) : (s.setSync b).reason = s.reason := rfl
@[simp] theorem State.setSync_resetPending (s : State) (b : Bool) : (s.setSync b).resetPending = s.resetPending := rfl
@[simp] theorem State.setSync_nmiLast (s : State) (b : Bool) : (s.setSync b).nmiLast = s.nmiLast := rfl
@[simp] theorem State.setSync_nmiPending (s : State) (b : Bool) : (s.setSync b).nmiPending = s.nmiPending := rfl
@[simp] theorem State.setSync_fault (s : State) (b : Bool) : (s.setSync b).fault = s.fault := rfl

@[simp] theorem State.setIRQ_pins (s : State) (b : Bool) : (s.setIRQ b).pins = { s.pins with irq := b } := rfl
@[simp] theorem State.setIRQ_regs (s : State) (b : Bool) : (s.setIRQ b).regs = s.regs := rfl
@[simp] theorem State.setIRQ_ir (s : State) (b : Bool) : (s.setIRQ b).ir = s.ir := rfl
@[simp] theorem State.setIRQ_cyc (s : State) (b : Bool) : (s.setIRQ b).cyc = s.cyc := rfl
@[simp] theorem State.setIRQ_ad (s : State) (b : Bool) : (s.setIRQ b).ad = s.ad := rfl
@[simp] theorem State.setIRQ_reason (s : State) (b : Bool) : (s.setIRQ b).reason = s.reason := rfl
@[simp] theorem State.setIRQ_resetPending (s : State) (b : Bool) : (s.setIRQ b).resetPending = s.resetPending := rfl
@[simp] theorem State.setIRQ_nmiLast (s : State) (b : Bool) : (s.setIRQ b).nmiLast = s.nmiLast := rfl
@[simp] theorem State.setIRQ_nmiPending (s : State) (b : Bool) : (s.setIRQ b).nmiPending = s.nmiPending := rfl
@[simp] theorem State.setIRQ_fault (s : State) (b : Bool) : (s.setIRQ b).fault = s.fault := rfl

@[simp] theorem State.setNMI_pins (s : State) (b : Bool) : (s.setNMI b).pins = { s.pins with nmi := b } := rfl
@[simp] theorem State.setNMI_regs (s : State) (b : Bool) : (s.setNMI b).regs = s.regs := rfl
@[simp] theorem State.setNMI_ir (s : State) (b : Bool) : (s.setNMI b).ir = s.ir := rfl
@[simp] theorem State.setNMI_cyc (s : State) (b : Bool) : (s.setNMI b).cyc = s.cyc := rfl
@[simp] theorem State.setNMI_ad (s : State) (b : Bool) : (s.setNMI b).ad = s.ad := rfl
@[simp] theorem State.setNMI_reason (s : State) (b : Bool) : (s.setNMI b).reason = s.reason := rfl
@[simp] theorem State.setNMI_resetPending (s : State) (b : Bool) : (s.setNMI b).resetPending = s.resetPending := rfl
@[simp] theorem State.setNMI_nmiLast (s : State) (b : Bool) : (s.setNMI b).nmiLast = s.nmiLast := rfl
@[simp] theorem State.setNMI_nmiPending (s : State) (b : Bool) : (s.setNMI b).nmiPending = s.nmiPending := rfl
@[simp] theorem State.setNMI_fault (s : State) (b : Bool) : (s.setNMI b).fault = s.fault := rfl

@[simp] theorem State.writeS_pins (s : State) (v : Byte) : (s.writeS v).pins = s.pins := rfl
@[simp] theorem State.writeS_regs (s : State) (v : Byte) : (s.writeS v).regs = { s.regs with s := v } := rfl
@[simp] theorem State.writeS_ir (s : State) (v : Byte) : (s.writeS v).ir = s.ir := rfl
@[simp] theorem State.writeS_cyc (s : State) (v : Byte) : (s.writeS v).cyc = s.cyc := rfl
@[simp] theorem State.writeS_ad (s : State) (v : Byte) : (s.writeS v).ad = s.ad := rfl
@[simp] theorem State.writeS_reason (s : State) (v : Byte) : (s.writeS v).reason = s.reason := rfl
@[simp] theorem State.writeS_resetPending (s : State) (v : Byte) : (s.writeS v).resetPending = s.resetPending := rfl
@[simp] theorem State.writeS_nmiLast (s : State) (v : Byte) : (s.writeS v).nmiLast = s.nmiLast := rfl
@[simp] theorem State.writeS_nmiPending (s : State) (v : Byte) : (s.writeS v).nmiPending = s.nmiPending := rfl
@[simp] theorem State.writeS_fault (s : State) (v : Byte) : (s.writeS v).fault = s.fault := rfl

@[simp] theorem State.writePc_pins (s : State) (v : Addr) : (s.writePc v).pins = s.pins := rfl
@[simp] theorem State.writePc_regs (s : State) (v : Addr) : (s.writePc v).regs = { s.regs with pc := v } := rfl
@[simp] theorem State.writePc_ir (s : State) (v : Addr) : (s.writePc v).ir = s.ir := rfl
@[simp] theorem State.writePc_cyc (s : State) (v : Addr) : (s.writePc v).cyc = s.cyc := rfl
@[simp] theorem State.writePc_ad (s : State) (v : Addr) : (s.writePc v).ad = s.ad := rfl
@[simp] theorem State.writePc_reason (s : State) (v : Addr) : (s.writePc v).reason = s.reason := rfl
@[simp] theorem State.writePc_resetPending (s : State) (v : Addr) : (s.writePc v).resetPending = s.resetPending := rfl
@[simp] theorem State.writePc_nmiLast (s : State) (v : Addr) : (s.writePc v).nmiLast = s.nmiLast := rfl
@[simp] theorem State.writePc_nmiPending (s : State) (v : Addr) : (s.writePc v).nmiPending = s.nmiPending := rfl
@[simp] theorem State.writePc_fault (s : State) (v : Addr) : (s.writePc v).fault = s.fault := rfl

@[simp] theorem State.writeP_pins (s : State) (v : Byte) : (s.writeP v).pins = s.pins := rfl
@[simp] theorem State.writeP_regs (s : State) (v : Byte) : (s.writeP v).regs = { s.regs with p := fixReserved v } := rfl
@[simp] theorem State.writeP_ir (s : State) (v : Byte) : (s.writeP v).ir = s.ir := rfl
@[simp] theorem State.writeP_cyc (s : State) (v : Byte) : (s.writeP v).cyc = s.cyc := rfl
@[simp] theorem State.writeP_ad (s : State) (v : Byte) : (s.writeP v).ad = s.ad := rfl
@[simp] theorem State.writeP_reason (s : State) (v : Byte) : (s.writeP v).reason = s.reason := rfl
@[simp] theorem State.writeP_resetPending (s : State) (v : Byte) : (s.writeP v).resetPending = s.resetPending := rfl
@[simp] theorem State.writeP_nmiLast (s : State) (v : Byte) : (s.writeP v).nmiLast = s.nmiLast := rfl
@[simp] theorem State.writeP_nmiPending (s : State) (v : Byte) : (s.writeP v).nmiPending = s.nmiPending := rfl
@[simp] theorem State.writeP_fault (s : State) (v : Byte) : (s.writeP v).fault = s.fault := rfl

@[simp] theorem State.writeAd_pins (s : State) (v : Addr) : (s.writeAd v).pins = s.pins := rfl
@[simp] theorem State.writeAd_regs (s : State) (v : Addr) : (s.writeAd v).regs = s.regs := rfl
@[simp] theorem State.writeAd_ir (s : State) (v : Addr) : (s.writeAd v).ir = s.ir := rfl
@[simp] theorem State.writeAd_cyc (s : State) (v : Addr) : (s.writeAd v).cyc = s.cyc := rfl
@[simp] theorem State.writeAd_ad (s : State) (v : Addr) : (s.writeAd v).ad = v := rfl
@[simp] theorem State.writeAd_reason (s : State) (v : Addr) : (s.writeAd v).reason = s.reason := rfl
@[simp] theorem State.writeAd_resetPending (s : State) (v : Addr) : (s.writeAd v).resetPending = s.resetPending := rfl
@[simp] theorem State.writeAd_nmiLast (s : State) (v : Addr) : (s.writeAd v).nmiLast = s.nmiLast := rfl
@[simp] theorem State.writeAd_nmiPending (s : State) (v : Addr) : (s.writeAd v).nmiPending = s.nmiPending := rfl
@[simp] theorem State.writeAd_fault (s : State) (v : Addr) : (s.writeAd v).fault = s.fault := rfl

@[simp] theorem State.setCyc_pins (s : State) (n : Nat) : (s.setCyc n).pins = s.pins := rfl
@[simp] theorem State.setCyc_regs (s : State) (n : Nat) : (s.setCyc n).regs = s.regs := rfl
@[simp] theorem State.setCyc_ir (s : State) (n : Nat) : (s.setCyc n).ir = s.ir := rfl
@[simp] theorem State.setCyc_cyc (s : State) (n : Nat) : (s.setCyc n).cyc = n := rfl
@[simp] theorem State.setCyc_ad (s : State) (n : Nat) : (s.setCyc n).ad = s.ad := rfl
@[simp] theorem State.setCyc_reason (s : State) (n : Nat) : (s.setCyc n).reason = s.reason := rfl
@[simp] theorem State.setCyc_resetPending (s : State) (n : Nat) : (s.setCyc n).resetPending = s.resetPending := rfl
@[simp] theorem State.setCyc_nmiLast (s : State) (n : Nat) : (s.setCyc n).nmiLast = s.nmiLast := rfl
@[simp] theorem State.setCyc_nmiPending (s : State) (n : Nat) : (s.setCyc n).nmiPending = s.nmiPending := rfl
@[simp] theorem State.setCyc_fault (s : State) (n : Nat) : (s.setCyc n).fault = s.fault := rfl

@[simp] theorem State.latch_pins (s : State) (op : Byte) (r : EntryReason) : (s.latch op r).pins = s.pins := rfl
@[simp] theorem State.latch_regs (s : State) (op : Byte) (r : EntryReason) : (s.latch op r).regs = s.regs := rfl
@[simp] theorem State.latch_ir (s : State) (op : Byte) (r : EntryReason) : (s.latch op r).ir = op := rfl
@[simp] theorem State.latch_cyc (s : State) (op : Byte) (r : EntryReason) : (s.latch op r).cyc = s.cyc := rfl
@[simp] theorem State.latch_ad (s : State) (op : Byte) (r : EntryReason) : (s.latch op r).ad = s.ad := rfl
@[simp] theorem State.latch_reason (s : State) (op : Byte) (r : EntryReason) : (s.latch op r).reason = r := rfl
@[simp] theorem State.latch_resetPending (s : State) (op : Byte) (r : EntryReason) : (s.latch op r).resetPending = s.resetPending := rfl
@[simp] theorem State.latch_nmiLast (s : State) (op : Byte) (r : EntryReason) : (s.latch op r).nmiLast = s.nmiLast := rfl
@[simp] theorem State.latch_nmiPending (s : State) (op : Byte) (r : EntryReason) : (s.latch op r).nmiPending = s.nmiPending := rfl
@[simp] theorem State.latch_fault (s : State) (op : Byte) (r : EntryReason) : (s.latch op r).fault = s.fault := rfl

@[simp] theorem State.detectNmiEdge_pins (s : State) : s.detectNmiEdge.pins = s.pins := rfl
@[simp] theorem State.detectNmiEdge_regs (s : State) : s.detectNmiEdge.regs = s.regs := rfl
@[simp] theorem State.detectNmiEdge_ir (s : State) : s.detectNmiEdge.ir = s.ir := rfl
@[simp] theorem State.detectNmiEdge_cyc (s : State) : s.detectNmiEdge.cyc = s.cyc := rfl
@[simp] theorem State.detectNmiEdge_ad (s : State) : s.detectNmiEdge.ad = s.ad := rfl
@[simp] theorem State.detectNmiEdge_reason (s : State) : s.detectNmiEdge.reason = s.reason := rfl
@[simp] theorem State.detectNmiEdge_resetPending (s : State) : s.detectNmiEdge.resetPending = s.resetPending := rfl
@[simp] theorem State.detectNmiEdge_nmiLast (s : State) : s.detectNmiEdge.nmiLast = s.pins.nmi := rfl
@[simp] theorem State.detectNmiEdge_nmiPending (s : State) : s.detectNmiEdge.nmiPending = (s.nmiPending || (s.pins.nmi && !s.nmiLast)) := rfl
@[simp] theorem State.detectNmiEdge_fault (s : State) : s.detectNmiEdge.fault = s.fault := rfl

@[simp] theorem State.raiseUnimplemented_pins (s : State) : s.raiseUnimplemented.pins = s.pins := rfl
@[simp] theorem State.raiseUnimplemented_regs (s : State) : s.raiseUnimplemented.regs = s.regs := rfl
@[simp] theorem State.raiseUnimplemented_ir (s : State) : s.raiseUnimplemented.ir = s.ir := rfl
@[simp] theorem State.raiseUnimplemented_cyc (s : State) : s.raiseUnimplemented.cyc = s.cyc := rfl
@[simp] theorem State.raiseUnimplemented_ad (s : State) : s.raiseUnimplemented.ad = s.ad := rfl
@[simp] theorem State.raiseUnimplemented_reason (s : State) : s.raiseUnimplemented.reason = s.reason := rfl
@[simp] theorem State.raiseUnimplemented_resetPending (s : State) : s.raiseUnimplemented.resetPending = s.resetPending := rfl
@[simp] theorem State.raiseUnimplemented_nmiLast (s : State) : s.raiseUnimplemented.nmiLast = s.nmiLast := rfl
@[simp] theorem State.raiseUnimplemented_nmiPending (s : State) : s.raiseUnimplemented.nmiPending = s.nmiPending := rfl
@[simp] theorem State.raiseUnimplemented_fault (s : State) : s.raiseUnimplemented.fault = some (.unimplementedInstruction s.ir s.cyc) := rfl

end Sys2Proof.Machine
end

