-- ==== Sys2Proof/Laws/Words.lean ====
section
/-! SUPPORT. The small lemmas of the address, byte and status helpers. -/

namespace Sys2Proof.Machine

theorem joinBytes_toNat (hi lo : Byte) : (joinBytes hi lo).toNat = hi.toNat * 256 + lo.toNat := by
  have h : (joinBytes hi lo).toNat = hi.toNat <<< 8 ||| lo.toNat := BitVec.toNat_append hi lo
  rw [h, ← Nat.shiftLeft_add_eq_or_of_lt lo.isLt, Nat.shiftLeft_eq]

theorem highByte_toNat (v : Addr) : (highByte v).toNat = v.toNat / 256 := by
  have := v.isLt
  simp only [highByte, BitVec.extractLsb'_toNat, Nat.shiftRight_eq_div_pow]
  omega

theorem lowByte_toNat (v : Addr) : (lowByte v).toNat = v.toNat % 256 := by
  simp [lowByte, BitVec.extractLsb'_toNat]

theorem zext16_toNat (v : Byte) : (zext16 v).toNat = v.toNat := by
  have := v.isLt
  simp only [zext16, BitVec.toNat_setWidth]
  omega

@[simp] theorem joinBytes_high_low (v : Addr) : joinBytes (highByte v) (lowByte v) = v := by
  apply BitVec.eq_of_toNat_eq
  rw [joinBytes_toNat, highByte_toNat, lowByte_toNat]
  omega

@[simp] theorem highByte_joinBytes (hi lo : Byte) : highByte (joinBytes hi lo) = hi := by
  apply BitVec.eq_of_toNat_eq
  have := lo.isLt
  rw [highByte_toNat, joinBytes_toNat]
  omega

@[simp] theorem lowByte_joinBytes (hi lo : Byte) : lowByte (joinBytes hi lo) = lo := by
  apply BitVec.eq_of_toNat_eq
  have := lo.isLt
  rw [lowByte_toNat, joinBytes_toNat]
  omega

@[simp] theorem lowByte_zext16 (v : Byte) : lowByte (zext16 v) = v := by
  apply BitVec.eq_of_toNat_eq
  have := v.isLt
  rw [lowByte_toNat, zext16_toNat]
  omega

@[simp] theorem highByte_zext16 (v : Byte) : highByte (zext16 v) = 0x00#8 := by
  apply BitVec.eq_of_toNat_eq
  have := v.isLt
  rw [highByte_toNat, zext16_toNat]
  simp only [BitVec.toNat_ofNat]
  omega

/-- A stack address lies in page 0x01 ... -/
@[simp] theorem highByte_stackAddress (s : Byte) : highByte (stackAddress s) = 0x01#8 := by
  revert s; decide

/-- ... at the offset S. -/
@[simp] theorem lowByte_stackAddress (s : Byte) : lowByte (stackAddress s) = s := by
  revert s; decide

theorem stackAddress_injective {s t : Byte} (h : stackAddress s = stackAddress t) : s = t := by
  simpa using congrArg lowByte h

@[simp] theorem fixReserved_idem (v : Byte) : fixReserved (fixReserved v) = fixReserved v := by
  revert v; decide

theorem fixReserved_and_mask (v : Byte) : fixReserved v &&& 0x30#8 = 0x20#8 := by
  revert v; decide

/-- A value with its reserved bits in place is left as it is. -/
theorem fixReserved_of_mask {v : Byte} (h : v &&& 0x30#8 = 0x20#8) : fixReserved v = v := by
  revert v; decide

@[simp] theorem fixReserved_setI (v : Byte) : fixReserved (fixReserved v ||| 0x04#8) = fixReserved v ||| 0x04#8 := by
  revert v; decide

@[simp] theorem State.readP_writeP (s : State) (v : Byte) : (s.writeP v).readP = fixReserved v := fixReserved_idem v

@[simp] theorem State.readP_setInterruptDisable (s : State) : s.setInterruptDisable.readP = s.readP ||| 0x04#8 := by
  simp [State.setInterruptDisable, State.readP, State.writeP]

/-- Setting I sets I and leaves every other flag. -/
theorem State.flag_setInterruptDisable (s : State) (f : Flag) :
    s.setInterruptDisable.flag f = (decide (f = .i) || s.flag f) := by
  have h : ∀ p : Byte, ∀ f : Flag,
      (p ||| 0x04#8).getLsbD f.position = (decide (f = .i) || p.getLsbD f.position) := by
    intro p f; cases f <;> revert p <;> decide
  simp only [State.flag, State.readP_setInterruptDisable, h]

end Sys2Proof.Machine
end

