-- ==== Sys2Proof/Laws/Ops.lean ====
section
/-! SUPPORT. One lemma per shared operation of the engine: everything it can do. -/

namespace Sys2Proof.Machine

/-- A push, as one record. -/
theorem State.push_eq (s : State) (v : Byte) :
    s.push v =
      { s with
        pins := { s.pins with
          addr := stackAddress (s.regs.s - 1#8), data := v, rw := if s.reason = .reset then s.pins.rw else false }
        regs := { s.regs with s := s.regs.s - 1#8 } } := by
  cases h : s.reason <;> simp [State.push, State.writeS, State.assertAddress, State.driveData, State.setDirection, h]

/-- Setting I, as one record. -/
theorem State.setInterruptDisable_eq (s : State) :
    s.setInterruptDisable = { s with regs := { s.regs with p := s.readP ||| 0x04#8 } } := by
  simp [State.setInterruptDisable, State.writeP, State.readP]

/-- Sampling writes IR, REASON and the latches only. -/
theorem State.boundarySample_frame (s : State) :
    s.boundarySample.pins = s.pins ∧ s.boundarySample.regs = s.regs ∧ s.boundarySample.cyc = s.cyc ∧
      s.boundarySample.ad = s.ad ∧ s.boundarySample.fault = s.fault := by
  unfold State.boundarySample
  simp only
  split
  · exact ⟨rfl, rfl, rfl, rfl, rfl⟩
  split
  · exact ⟨rfl, rfl, rfl, rfl, rfl⟩
  split <;> exact ⟨rfl, rfl, rfl, rfl, rfl⟩

/-- The four outcomes of sampling, in priority order. `edge` is the NMI request the fetch step sees. -/
theorem State.boundarySample_cases (s : State) :
    let edge := s.nmiPending || (s.pins.nmi && !s.nmiLast)
    let sampled := { s with nmiLast := s.pins.nmi }
    (s.resetPending = true ∧
      s.boundarySample = { sampled with ir := 0x00#8, reason := .reset, resetPending := false, nmiPending := edge }) ∨
    (s.resetPending = false ∧ edge = true ∧
      s.boundarySample = { sampled with ir := 0x00#8, reason := .nmi, nmiPending := false }) ∨
    (s.resetPending = false ∧ edge = false ∧ s.pins.irq = true ∧ s.flag .i = false ∧
      s.boundarySample = { sampled with ir := 0x00#8, reason := .irq, nmiPending := false }) ∨
    (s.resetPending = false ∧ edge = false ∧ (s.pins.irq = false ∨ s.flag .i = true) ∧
      s.boundarySample = { sampled with ir := s.pins.data, reason := .softwareBreak, nmiPending := false }) := by
  have hflag : s.detectNmiEdge.flag .i = s.flag .i := rfl
  simp only [State.boundarySample, hflag, State.detectNmiEdge_resetPending, State.detectNmiEdge_nmiPending,
    State.detectNmiEdge_pins]
  generalize s.flag .i = i
  obtain ⟨⟨addr, data, rw, sync, irq, nmi⟩, regs, ir, cyc, ad, reason, resetPending, nmiLast, nmiPending, fault⟩ := s
  cases resetPending <;> cases nmiPending <;> cases nmi <;> cases nmiLast <;> cases irq <;> cases i <;>
    simp [State.latch, State.detectNmiEdge]

/-- A step that is no fetch step begins by defaulting RW to read, and nothing else. -/
theorem State.beginStep_of_not_sync {s : State} (h : s.pins.sync = false) : s.beginStep = s.setDirection true := by
  simp [State.beginStep, State.fetchPhase, h]

/-- A fetch step begins by sampling, then CYC is 0, SYNC is 0 and RW is 1. -/
theorem State.beginStep_of_sync {s : State} (h : s.pins.sync = true) :
    s.beginStep = { s.boundarySample with pins := { s.pins with sync := false, rw := true }, cyc := 0 } := by
  simp [State.beginStep, State.fetchPhase, h, State.setCyc, State.setSync, State.setDirection,
    (State.boundarySample_frame s).1]

/-- Whatever kind of step it is, its beginning leaves ADDR, DATA, the lines, the registers, AD and FAULT. -/
theorem State.beginStep_frame (s : State) :
    s.beginStep.pins = { s.pins with sync := false, rw := true } ∧ s.beginStep.regs = s.regs ∧
      s.beginStep.ad = s.ad ∧ s.beginStep.fault = s.fault := by
  obtain ⟨_, hr, _, ha, hf⟩ := State.boundarySample_frame s
  cases h : s.pins.sync
  · rw [State.beginStep_of_not_sync h]; simp [h]
  · rw [State.beginStep_of_sync h]; exact ⟨rfl, hr, ha, hf⟩

/-- The dispatch table has entries at the cycle indices 0 to 6 and no other. -/
theorem State.takeEntry_eq_none_iff (s : State) (k : Nat) : s.takeEntry k = none ↔ 7 ≤ k := by
  match k with
  | 0 | 1 | 2 | 3 | 4 | 5 | 6 => simp [State.takeEntry]
  | n + 7 => simp [State.takeEntry]

/-- What a micro-step never changes, whichever it is. -/
theorem State.takeEntry_frame {s t : State} {k : Nat} (h : s.takeEntry k = some t) :
    t.pins.irq = s.pins.irq ∧ t.pins.nmi = s.pins.nmi ∧ t.regs.a = s.regs.a ∧ t.regs.x = s.regs.x ∧
      t.regs.y = s.regs.y ∧ t.ir = s.ir ∧ t.cyc = s.cyc ∧ t.reason = s.reason ∧ t.resetPending = s.resetPending ∧
      t.nmiLast = s.nmiLast ∧ t.nmiPending = s.nmiPending ∧ t.fault = s.fault := by
  match k, h with
  | 0, h => cases h; simp [State.entryDummyFetch]
  | 1, h => cases h; simp [State.entryPushPcHigh, State.push_eq]
  | 2, h => cases h; simp [State.entryPushPcLow, State.push_eq]
  | 3, h => cases h; simp [State.entryPushStatus, State.push_eq, State.setInterruptDisable_eq]
  | 4, h => cases h; simp [State.entryReadVectorLow]
  | 5, h => cases h; simp [State.entryReadVectorHigh]
  | 6, h => cases h; simp [State.entryLoadPc]

end Sys2Proof.Machine
end

