-- ==== Sys2Proof/Laws/Step.lean ====
section
/-! SUPPORT. What a step can do, said once. -/

namespace Sys2Proof.Machine

theorem decode_zero : decode 0x00#8 = .instr .brk := rfl

theorem decode_of_ne_zero {b : Byte} (h : b ≠ 0x00#8) : decode b = .unimplemented b := by
  simp [decode, opcodeAdmitted, h]

/-- BRK at a cycle index with a dispatch entry. -/
theorem execBrk_of_entry {s t : State} (h : s.takeEntry s.cyc = some t) : execBrk s = .next t.nextCycle := by
  simp [execBrk, h]

/-- BRK past its last cycle index. -/
theorem execBrk_of_no_entry {s : State} (h : s.takeEntry s.cyc = none) : execBrk s = .next s.raiseUnimplemented := by
  simp [execBrk, h]

/-- Every next state of a step: a micro-step of the 0x00 sequence and then the increment, or the fault record, after the
same beginning. -/
theorem step_next_cases {s t : State} (h : step s = .next t) :
    s.fault = none ∧
      ((s.beginStep.ir = 0x00#8 ∧ ∃ u, s.beginStep.takeEntry s.beginStep.cyc = some u ∧ t = u.nextCycle) ∨
        ((s.beginStep.ir ≠ 0x00#8 ∨ 7 ≤ s.beginStep.cyc) ∧ t = s.beginStep.raiseUnimplemented)) := by
  cases hf : s.fault with
  | some f => simp [step, hf] at h
  | none =>
    refine ⟨rfl, ?_⟩
    simp only [step, hf, State.dispatch] at h
    by_cases hir : s.beginStep.ir = 0x00#8
    · rw [hir, decode_zero] at h
      simp only [exec] at h
      cases he : s.beginStep.takeEntry s.beginStep.cyc with
      | some u => rw [execBrk_of_entry he] at h; cases h; exact .inl ⟨hir, u, rfl, rfl⟩
      | none =>
        rw [execBrk_of_no_entry he] at h; cases h
        exact .inr ⟨.inr ((State.takeEntry_eq_none_iff _ _).1 he), rfl⟩
    · rw [decode_of_ne_zero hir] at h
      cases h; exact .inr ⟨.inl hir, rfl⟩

end Sys2Proof.Machine
end

