-- ==== Sys2Proof/Tests/Slice0.lean ====
section
/-! SUPPORT. Small tests with expected results from the spec, and for every statement with hypotheses a witness that meets
them. -/

namespace Sys2Proof.Tests
open Sys2Proof Sys2Proof.Machine

/-! ### Helper states -/

/-- The base state F0 of 95_test_vectors.md, with a byte on DATA. -/
def fetchState (d : Byte) : State :=
  { State.reset with
    pins := { State.reset.pins with addr := 0x4000#16, data := d }
    regs := { State.reset.regs with s := 0xF0#8, p := 0x26#8, pc := 0x4000#16 }
    cyc := 7
    resetPending := false }

/-- A state inside the 0x00 sequence, with the register values of V-B1. -/
def midState (k : Nat) (r : EntryReason) : State :=
  { fetchState 0x00#8 with
    pins := { State.reset.pins with sync := false }
    regs := { State.reset.regs with s := 0xFD#8, p := 0x26#8, pc := 0x8000#16 }
    cyc := k
    reason := r }

/-- One step from `s` answers a next state of which `p` holds. -/
def stepsTo (s : State) (p : State → Bool) : Bool :=
  match step s with
  | .next t => p t
  | .fault _ => false
  | .refused _ => false

/-! ### The check that well-formedness makes -/

/-- 00_scope.md R6: a byte outside ADMITTED_OPCODES is refused. -/
theorem test_opcodeAdmitted_refuses : opcodeAdmitted 0x00#8 = true ∧ opcodeAdmitted 0x01#8 = false ∧
    opcodeAdmitted 0xEA#8 = false ∧ opcodeAdmitted 0xFF#8 = false := by decide

/-- The refused byte is no instruction, and the instruction is well formed. -/
theorem test_wellFormed_smoke : Instr.brk.wellFormed = true ∧ decodeTableWord 8 0xEA = none := by decide

/-! ### Decoding: words written out from 30_encoding.md R64, R67 -/

/-- The byte 00000000, bits 7 down to 0, is BRK. -/
theorem test_decode_brk_word : decode 0b00000000#8 = .instr .brk ∧ decodeTableWord 8 0b00000000 = some .brk := by decide

/-- One set bit anywhere makes another opcode. -/
theorem test_decode_one_bit_off : decode 0b00000001#8 = .unimplemented 0x01#8 ∧
    decode 0b10000000#8 = .unimplemented 0x80#8 ∧ decode 0b00010000#8 = .unimplemented 0x10#8 := by decide

/-! ### BRK and the fetch step: one step each -/

/-- V-K3: BRK at 0xFFFF. Cycle 1 wraps PC and pushes 0x00; with S = 0x00 the push goes to 0x01FF (V-K2). -/
theorem test_brk_cycle_one_wraps :
    stepsTo
      { midState 1 .softwareBreak with
        regs := { (midState 1 .softwareBreak).regs with pc := 0xFFFF#16, s := 0x00#8 } }
     
      (fun t => decide (t.regs.pc = 0x0000#16 ∧ t.regs.s = 0xFF#8 ∧ t.busCycle = ⟨.write, 0x01FF#16, 0x00#8, false⟩)) =
        true := by
  decide

/-- V-K10 and V-K5: the image is composed before I is set, with bit 4 for SoftwareBreak. -/
theorem test_brk_cycle_three_image :
    stepsTo { midState 3 .softwareBreak with regs := { (midState 3 .softwareBreak).regs with p := 0xE3#8 } }
      (fun t => decide (t.pins.data = 0xF3#8 ∧ t.readP = 0xE7#8 ∧ t.ad = 0xFFFE#16)) = true := by decide

/-- V-F5: an NMI edge discards 0xEA; no fault. -/
theorem test_fetch_nmi_edge :
    stepsTo ((fetchState 0xEA#8).setNMI true)
      (fun t => decide (t.ir = 0x00#8 ∧ t.reason = .nmi ∧ t.nmiLast = true ∧ t.nmiPending = false ∧ t.fault = none)) =
        true := by
  decide

/-- V-F11: reset beats both, and the NMI edge is kept. -/
theorem test_fetch_reset_beats_nmi :
    stepsTo { ((fetchState 0x00#8).setNMI true).setIRQ true with resetPending := true }
      (fun t => decide (t.reason = .reset ∧ t.resetPending = false ∧ t.nmiLast = true ∧ t.nmiPending = true)) =
        true := by
  decide

/-- V-F2: 0xEA faults at cycle 0 and PC stays. -/
theorem test_fetch_unimplemented :
    stepsTo (fetchState 0xEA#8)
      (fun t => decide (t.fault = some (.unimplementedInstruction 0xEA#8 0) ∧ t.regs.pc = 0x4000#16 ∧ t.cyc = 0)) =
        true := by
  decide

/-- V-P1: setData truncates. -/
theorem test_setData_truncates : (State.reset.setData 0x1A5).readData = 0xA5#8 := by decide

/-! ### Witnesses: the hypotheses of each statement are met -/

theorem witness_DecoderIsTotalOnBytes : (0x00#8 : Byte) = 0x00#8 ∧ (0x01#8 : Byte) ≠ 0x00#8 ∧ (0xFF#8 : Byte) ≠ 0x00#8 := by
  decide

theorem witness_DecodeAndEncodeAgree : Instr.brk.wellFormed = true ∧ decode 0x00#8 = .instr .brk := by decide

theorem witness_StepRunsTheDecodedInstruction :
    State.reset.fault = none ∧ decode State.reset.beginStep.ir = .instr .brk ∧
    (fetchState 0x01#8).fault = none ∧ decode (fetchState 0x01#8).beginStep.ir = .unimplemented 0x01#8 := by decide

theorem witness_PlacedWordIsFetchedAndRun :
    decodeTableWord 8 0x00 = some .brk ∧
    stepsTo (State.reset.withFetchWord 8 0x00)
      (fun t => decide (t.reason = .softwareBreak ∧ t.cyc = 1 ∧ t.fault = none)) = true := by decide

theorem witness_StepIsTotalExactlyWithoutAFault :
    State.reset.fault = none ∧
    ({ State.reset with fault := some (.unimplementedInstruction 0xEA#8 0) } : State).fault =
      some (.unimplementedInstruction 0xEA#8 0) := by decide

/-- One state for each clause: no fetch step; reset; NMI; IRQ; masked IRQ; fetched opcode. -/
theorem witness_FetchStepSamplesInPriorityOrder :
    (midState 1 .nmi).fault = none ∧ (midState 1 .nmi).pins.sync = false ∧
    State.reset.pins.sync = true ∧ State.reset.resetPending = true ∧
    ((fetchState 0xEA#8).setNMI true).pins.sync = true ∧ ((fetchState 0xEA#8).setNMI true).pins.nmi = true ∧
    ((fetchState 0xEA#8).setNMI true).nmiLast = false ∧
    (((fetchState 0xFF#8).setIRQ true).writeP 0x22#8).flag .i = false ∧
    ((fetchState 0x00#8).setIRQ true).flag .i = true ∧
    (fetchState 0x00#8).EntryRequested = False := by
  refine ⟨rfl, rfl, rfl, rfl, rfl, rfl, rfl, by decide, by decide, ?_⟩
  simp only [eq_iff_iff, iff_false]; decide

/-- Each of the four requests. -/
theorem witness_EntryRequestDiscardsTheFetchedByte :
    State.reset.fault = none ∧ State.reset.pins.sync = true ∧ State.reset.EntryRequested ∧
    ({ fetchState 0xEA#8 with nmiPending := true } : State).EntryRequested ∧
    ((fetchState 0xEA#8).setNMI true).EntryRequested ∧
    (((fetchState 0xFF#8).setIRQ true).writeP 0x22#8).EntryRequested ∧
    (((fetchState 0xFF#8).setIRQ true).writeP 0x22#8).pins.sync = true := by decide

theorem witness_LinesAreReadAtFetchStepsOnly :
    (midState 1 .softwareBreak).fault = none ∧ (midState 1 .softwareBreak).pins.sync = false ∧
    (midState 7 .nmi).pins.sync = false := by decide

/-- Inside an NMI entry with the line still held: its final micro-step (no fetch step), and the fetch step after it. -/
theorem witness_HeldNmiLineIsNotTakenAgain :
    let s : State := { (midState 6 .nmi).setNMI true with nmiLast := true }
    s.pins.nmi = true ∧ s.nmiLast = true ∧ s.nmiPending = false ∧ s.reason = .nmi ∧
    (∀ h ∈ [[HostAction.setData 0x00, .setNMI true]], HostAction.setNMI false ∉ h) ∧
    HostAction.setNMI false ∉ ([] : List HostAction) ∧
    s.runTurns [] = .next s ∧ s.pins.sync = false ∧
    ∃ t u, s.runTurns [[.setData 0x00, .setNMI true]] = .next t ∧ t.pins.sync = true ∧ t.reason = .nmi ∧
      t.cycle [] = .next u :=
  ⟨rfl, rfl, rfl, rfl, by decide, by decide, rfl, rfl, _, _, rfl, rfl, rfl, rfl⟩

theorem witness_CycleIndexCountsFromTheFetchStep : (midState 6 .irq).fault = none ∧ (fetchState 0xEA#8).fault = none := by
  decide

/-- Each clause, at the ends of its range. -/
theorem witness_EngineCyclesThroughItsPhases :
    State.reset.phase = .fetch ∧ (midState 0 .irq).phase = .executing 0x00#8 0 ∧
    (midState 5 .irq).phase = .executing 0x00#8 5 ∧ (midState 6 .irq).phase = .executing 0x00#8 6 ∧
    (midState 7 .irq).phase = .executing 0x00#8 7 ∧
    ({ midState 0 .irq with ir := 0x01#8 } : State).phase = .executing 0x01#8 0 ∧
    ({ State.reset with fault := some (.unimplementedInstruction 0xEA#8 0) } : State).phase =
      .stuck (.unimplementedInstruction 0xEA#8 0) := by decide

theorem witness_BrkCycleZeroAssertsPc :
    (midState 0 .reset).cyc = 0 ∧ (midState 0 .reset).pins.rw = true ∧ (midState 0 .reset).pins.sync = false := by decide

/-- Both values that decide the cycle: SoftwareBreak and Reset. -/
theorem witness_BrkCycleOnePushesPcHigh :
    (midState 1 .softwareBreak).cyc = 1 ∧ (midState 1 .softwareBreak).pins.rw = true ∧
    (midState 1 .softwareBreak).pins.sync = false ∧ (midState 1 .reset).cyc = 1 ∧
    (midState 1 .reset).reason = .reset := by decide

theorem witness_BrkCycleTwoPushesPcLow :
    (midState 2 .nmi).cyc = 2 ∧ (midState 2 .nmi).pins.rw = true ∧ (midState 2 .nmi).pins.sync = false ∧
    (midState 2 .reset).reason = .reset := by decide

theorem witness_BrkCycleThreePushesStatus :
    (midState 3 .softwareBreak).cyc = 3 ∧ (midState 3 .softwareBreak).pins.rw = true ∧
    (midState 3 .softwareBreak).pins.sync = false ∧ (midState 3 .reset).reason = .reset := by decide

theorem witness_BrkCycleFourReadsVectorLow :
    (midState 4 .irq).cyc = 4 ∧ (midState 4 .irq).pins.rw = true ∧ (midState 4 .irq).pins.sync = false := by decide

theorem witness_BrkCycleFiveReadsVectorHigh :
    (midState 5 .irq).cyc = 5 ∧ (midState 5 .irq).pins.rw = true ∧ (midState 5 .irq).pins.sync = false := by decide

theorem witness_BrkCycleSixLoadsPc : (midState 6 .irq).cyc = 6 ∧ (midState 6 .irq).pins.rw = true := by decide

theorem witness_BrkPastItsLastCycleRecordsTheFault : 7 ≤ (midState 7 .irq).cyc := by decide

/-- The clauses about DATA, RW and S at cycles 0 and 4, PC away from 1 and 6, AD at 2 and 6, and the write cycle. -/
theorem witness_BrkChangesOnlyItsDestinations :
    (midState 0 .nmi).cyc = 0 ∧ 4 ≤ (midState 4 .nmi).cyc ∧ (midState 2 .nmi).cyc ≠ 1 ∧ (midState 2 .nmi).cyc < 3 ∧
    5 < (midState 6 .nmi).cyc ∧ (midState 6 .nmi).cyc ≤ 6 ∧ (midState 1 .nmi).pins.rw = true ∧
    stepsTo (midState 1 .nmi) (fun t => decide (t.pins.rw = false)) = true := by decide

theorem witness_FaultExactlyOffTheDispatchTable : (midState 6 .nmi).fault = none ∧ (midState 7 .nmi).fault = none := by
  decide

theorem witness_UnimplementedPairIsRecordedAndFatal :
    (fetchState 0x01#8).fault = none ∧ (fetchState 0x01#8).beginStep.ir ≠ 0x00#8 ∧
    (fetchState 0x01#8).pins.sync = true ∧ (midState 7 .irq).fault = none ∧ 7 ≤ (midState 7 .irq).beginStep.cyc := by
  decide

theorem witness_EveryOpcodeButZeroFaultsAtItsFetch :
    (fetchState 0x01#8).fault = none ∧ (fetchState 0x01#8).pins.sync = true ∧ ¬ (fetchState 0x01#8).EntryRequested ∧
    (fetchState 0x01#8).pins.data ≠ 0x00#8 ∧ ¬ (fetchState 0xFF#8).EntryRequested ∧
    (fetchState 0xFF#8).pins.data ≠ 0x00#8 := by decide

/-- Both sides: a push of an NMI entry writes, the same push of a reset does not. -/
theorem witness_WriteCyclesArePushesOfNonResetEntries :
    stepsTo (midState 3 .nmi) (fun t => decide (t.RanPush ∧ t.reason ≠ .reset ∧ t.pins.rw = false)) = true ∧
    stepsTo (midState 1 .reset) (fun t => decide (t.RanPush ∧ t.pins.rw = true)) = true := by decide

theorem witness_SyncMarksTheFinalMicroStep :
    stepsTo (midState 6 .nmi) (fun t => decide (t.Ran 6 ∧ t.pins.sync = true)) = true ∧
    stepsTo (midState 5 .nmi) (fun t => decide (¬ t.Ran 6 ∧ t.pins.sync = false)) = true := by decide

theorem witness_StackPointerMovesByPushesOnly :
    stepsTo (midState 1 .nmi) (fun t => decide (t.RanPush ∧ t.regs.s = 0xFC#8)) = true ∧
    stepsTo (midState 3 .reset) (fun t => decide (t.RanPush ∧ t.regs.s = 0xFC#8)) = true ∧
    stepsTo (midState 4 .nmi) (fun t => decide (¬ t.RanPush ∧ t.regs.s = 0xFD#8)) = true := by decide

theorem witness_ProgramCounterMovesAtCyclesOneAndSix :
    stepsTo (midState 1 .softwareBreak) (fun t => decide (t.Ran 1 ∧ t.regs.pc = 0x8001#16)) = true ∧
    stepsTo (midState 1 .nmi) (fun t => decide (t.Ran 1 ∧ t.regs.pc = 0x8000#16)) = true ∧
    stepsTo (midState 6 .nmi) (fun t => decide (t.Ran 6 ∧ t.regs.pc = 0x0000#16)) = true := by decide

theorem witness_ScratchRegisterIsWrittenAtCyclesThreeToFive :
    stepsTo (midState 3 .nmi) (fun t => decide (t.Ran 3 ∧ t.ad = 0xFFFA#16)) = true ∧
    stepsTo (midState 4 .nmi) (fun t => decide (t.Ran 4 ∧ t.ad = 0x0001#16)) = true ∧
    stepsTo ((midState 5 .nmi).setData 0x34) (fun t => decide (t.Ran 5 ∧ t.ad = 0x0034#16)) = true := by decide

theorem witness_PinsHoldWhatNoMicroStepAsserts :
    stepsTo (midState 4 .nmi) (fun t => decide (¬ t.RanPush)) = true ∧
    stepsTo (fetchState 0xEA#8) (fun t => decide (t.fault ≠ none)) = true := by decide

theorem witness_OnlyInterruptDisableIsEverWritten :
    stepsTo ((midState 3 .irq).writeP 0x22#8) (fun t => decide (t.Ran 3 ∧ t.flag .i = true)) = true ∧
    stepsTo ((midState 2 .irq).writeP 0x22#8) (fun t => decide (¬ t.Ran 3 ∧ t.flag .i = false)) =
        true := by
  decide

theorem witness_IndexRegistersAreInert : (midState 3 .softwareBreak).fault = none := by decide

/-- A reset entry, an NMI entry and a fetched BRK meet the hypotheses of the two statements of the whole sequence. -/
theorem witness_EntrySequenceLeavesItsSevenBusCycles :
    State.reset.fault = none ∧ State.reset.pins.sync = true ∧ (State.reset.hostTurn [.setData 0xFF]).EntryRequested ∧
    (fetchState 0xEA#8).fault = none ∧ (fetchState 0xEA#8).pins.sync = true ∧
    ((fetchState 0xEA#8).hostTurn [.setNMI true]).EntryRequested ∧
    ((fetchState 0xEA#8).hostTurn [.setData 0x100]).pins.data = 0x00#8 := by decide

theorem witness_EntrySequenceNetEffect :
    (fetchState 0x00#8).fault = none ∧ (fetchState 0x00#8).pins.sync = true ∧
    ((fetchState 0x00#8).hostTurn []).pins.data = 0x00#8 := by decide

/-- The ends of the range: one micro-step left, and six. -/
theorem witness_SequenceReachesTheNextFetchInTime :
    (midState 6 .nmi).fault = none ∧ (midState 6 .nmi).pins.sync = false ∧ (midState 6 .nmi).ir = 0x00#8 ∧
    1 ≤ (midState 6 .nmi).cyc ∧ (midState 6 .nmi).cyc ≤ 6 ∧
    ([[HostAction.setIRQ true]] : List (List HostAction)).length = 7 - (midState 6 .nmi).cyc ∧
    1 ≤ (midState 1 .nmi).cyc ∧ ([[], [], [], [], [], []] : List (List HostAction)).length = 7 - (midState 1 .nmi).cyc := by
  decide

theorem witness_HostTurnKeepsTheReachableForm : State.reset.ReachableForm :=
  ⟨by decide, by decide, by decide, by decide, by decide, by decide, by decide⟩

/-- A fetch state after the reset sequence and its next state. -/
theorem witness_StepKeepsTheReachableForm : (fetchState 0x00#8).ReachableForm ∧ ∃ t, step (fetchState 0x00#8) = .next t :=
  ⟨⟨by decide, by decide, by decide, by decide, by decide, by decide, by decide⟩, _, rfl⟩

theorem witness_IrqEntryIsUnreachableFromPowerOn : ∃ t, State.reset.runTurns [[.setIRQ true]] = .next t := ⟨_, rfl⟩

/-- Both sides: the first step, with no record, and the eighth step from power-on, which latches 0xEA and records it. -/
theorem witness_ReachableFaultsAreAtCycleZero :
    (∃ t, State.reset.runTurns [[.setData 0xEA]] = .next t ∧ t.fault = none) ∧
    ∃ t, State.reset.runTurns [[], [], [], [], [], [], [], [.setData 0xEA]] = .next t ∧
      t.fault = some (.unimplementedInstruction 0xEA#8 0) := ⟨⟨_, rfl, rfl⟩, _, rfl, rfl⟩

/-- A read cycle and a write cycle. -/
theorem witness_RoundChangesOnlyTheWrittenByte :
    (RefHost.powerOn [(0xFFFD, 0x80#8)]).mem.wf = true ∧ (RefHost.powerOn []).core.fault = none ∧
    (RefHost.powerOn []).core.pins.rw = true ∧ ((midState 2 .nmi).setDirection false).pins.rw = false ∧
    ((midState 2 .nmi).setDirection false).fault = none := by decide

theorem witness_RefHostKeepsItsMemoryCanonical :
    Memory.wf [(0x01FC, 0x80#8), (0xFFFD, 0x80#8)] = true ∧ Memory.wf [(0xFFFD, 0x80#8), (0x01FC, 0x80#8)] = false ∧
    Memory.wf [(0x01FC, 0x00#8)] = false := by decide

theorem witness_BreakUnderTheReferenceHost :
    Memory.wf [(0xFFFF, 0x90#8)] = true ∧ (fetchState 0xEA#8).fault = none ∧ (fetchState 0xEA#8).pins.sync = true ∧
    (fetchState 0xEA#8).pins.rw = true ∧ Memory.read [(0xFFFF, 0x90#8)] (fetchState 0xEA#8).pins.addr = 0x00#8 ∧
    ¬ (((fetchState 0xEA#8).setIRQ true).setNMI false).EntryRequested := by decide

/-- The vectors of L3-P4 with b = 0x8000, for n = 0 and for n = 1 with NMI at 1 in the second round, no fetch step. -/
theorem witness_BreakLoopDescendsTheStack :
    let m : Memory := [(0xFFFD, 0x80#8), (0xFFFF, 0x80#8)]
    let b : Addr := 0x8000#16
    m.wf = true ∧ m.read 0xFFFC#16 = lowByte b ∧ m.read 0xFFFD#16 = highByte b ∧ m.read 0xFFFE#16 = lowByte b ∧
    m.read 0xFFFF#16 = highByte b ∧ m.read b = 0x00#8 ∧ highByte b ≠ 0x01#8 ∧
    (List.replicate 7 (Lines.mk true false)).length = 7 + 7 * 0 ∧
    (∀ k l, (List.replicate 7 (Lines.mk true false))[7 * k]? = some l → l.nmi = false) ∧
    (Lines.mk true false :: Lines.mk true true :: List.replicate 12 (Lines.mk true false)).length = 7 + 7 * 1 ∧
    ∀ k l, (Lines.mk true false :: Lines.mk true true :: List.replicate 12 (Lines.mk true false))[7 * k]? = some l →
      l.nmi = false := by
  refine ⟨by decide, by decide, by decide, by decide, by decide, by decide, by decide, by decide, ?_, by decide, ?_⟩
  · intro k l h
    rw [List.eq_of_mem_replicate (List.mem_of_getElem? h)]
  · intro k l h
    match k, h with
    | 0, h => cases h; rfl
    | 1, h => cases h; rfl
    | k + 2, h =>
      rw [List.getElem?_eq_none (by simp; omega)] at h
      cases h

end Sys2Proof.Tests
end

section
/-! SUPPORT. The rules that the statements about the state share: what the beginning of a step leaves, what a micro-step
of the 0x00 sequence leaves in every field, and what a step with no fault record before it answers. -/

namespace Sys2Proof.Machine

/-! ### The beginning of a step -/

@[simp] theorem State.beginStep_pins (s : State) : s.beginStep.pins = { s.pins with sync := false, rw := true } :=
  let ⟨h, _, _, _⟩ := State.beginStep_frame s; h

@[simp] theorem State.beginStep_regs (s : State) : s.beginStep.regs = s.regs :=
  let ⟨_, h, _, _⟩ := State.beginStep_frame s; h

@[simp] theorem State.beginStep_ad (s : State) : s.beginStep.ad = s.ad :=
  let ⟨_, _, h, _⟩ := State.beginStep_frame s; h

@[simp] theorem State.beginStep_fault (s : State) : s.beginStep.fault = s.fault :=
  let ⟨_, _, _, h⟩ := State.beginStep_frame s; h

/-- A fetch step counts from 0 (40_step_engine.md R75). -/
theorem State.beginStep_cyc (s : State) : s.beginStep.cyc = if s.pins.sync then 0 else s.cyc := by
  cases h : s.pins.sync
  · simp [State.beginStep_of_not_sync h]
  · simp [State.beginStep_of_sync h]

theorem State.beginStep_ir_of_not_sync {s : State} (h : s.pins.sync = false) : s.beginStep.ir = s.ir := by
  simp [State.beginStep_of_not_sync h]

/-! ### The status register -/

/-- A flag is read from P alone. -/
theorem State.flag_congr {s t : State} (h : t.regs.p = s.regs.p) (f : Flag) : t.flag f = s.flag f := by
  simp [State.flag, State.readP, h]

@[simp] theorem State.beginStep_flag (s : State) (f : Flag) : s.beginStep.flag f = s.flag f :=
  State.flag_congr (by simp) f

/-- Every value written with its reserved bits fixed and I set has the stored form of P. -/
theorem State.statusForm_setInterruptDisable (s : State) : s.setInterruptDisable.StatusForm :=
  fixReserved_and_mask _

/-- A read of P bit by bit (10_state.md R22). -/
theorem getLsbD_fixReserved (v : Byte) (k : Nat) :
    (fixReserved v).getLsbD k = if k = 4 then false else if k = 5 then true else v.getLsbD k := by
  match k with
  | 0 | 1 | 2 | 3 | 4 | 5 | 6 | 7 => simp [fixReserved]
  | n + 8 => simp [fixReserved]

theorem State.getLsbD_readP (s : State) (k : Nat) :
    s.readP.getLsbD k = if k = 4 then false else if k = 5 then true else s.regs.p.getLsbD k :=
  getLsbD_fixReserved _ k

/-- The pushed image bit by bit (10_state.md R22). -/
theorem getLsbD_pushedImage (r : EntryReason) (p : Byte) (k : Nat) :
    (pushedImage r p).getLsbD k =
      if k = 5 then true else if k = 4 then p.getLsbD 4 || decide (r = .softwareBreak) else p.getLsbD k := by
  by_cases hr : r = .softwareBreak
  · match k with
    | 0 | 1 | 2 | 3 | 4 | 5 | 6 | 7 => simp [pushedImage, hr]
    | n + 8 => simp [pushedImage, hr]
  · match k with
    | 0 | 1 | 2 | 3 | 4 | 5 | 6 | 7 => simp [pushedImage, hr]
    | n + 8 => simp [pushedImage, hr]

/-! ### The micro-steps -/

/-- BRK_PC_ADVANCE as one condition (00_scope.md R6). -/
theorem pcAdvance_eq (r : EntryReason) : pcAdvance r = if r = .softwareBreak then 1#16 else 0#16 := by
  cases r <;> rfl

/-- The cycle indices of the three pushes (41_brk_sequence.md R91-R93). -/
abbrev PushCycle (k : Nat) : Prop := k = 1 ∨ k = 2 ∨ k = 3

/-- What micro-step (0x00, k) leaves in every field of `t` but CYC, in terms of the state `s` it is dispatched in
(41_brk_sequence.md R90-R96). -/
structure MicroStepEffect (s : State) (k : Nat) (t : State) : Prop where
  pins_eq : t.pins =
    { s.pins with
      addr :=
        if PushCycle k then stackAddress (s.regs.s - 1#8)
        else if k = 0 then s.regs.pc
        else if k = 6 then joinBytes s.pins.data (lowByte s.ad)
        else s.ad
      data :=
        if k = 1 then highByte (s.regs.pc + pcAdvance s.reason)
        else if k = 2 then lowByte s.regs.pc
        else if k = 3 then pushedImage s.reason s.readP
        else s.pins.data
      rw := if PushCycle k then (if s.reason = .reset then s.pins.rw else false) else s.pins.rw
      sync := if k = 6 then true else s.pins.sync }
  regs_eq : t.regs =
    { s.regs with
      s := if PushCycle k then s.regs.s - 1#8 else s.regs.s
      p := if k = 3 then s.setInterruptDisable.regs.p else s.regs.p
      pc :=
        if k = 1 then s.regs.pc + pcAdvance s.reason
        else if k = 6 then joinBytes s.pins.data (lowByte s.ad)
        else s.regs.pc }
  ad_eq : t.ad =
    if k = 3 then vector s.reason
    else if k = 4 then s.ad + 1#16
    else if k = 5 then zext16 s.pins.data
    else s.ad
  ir_eq : t.ir = s.ir
  reason_eq : t.reason = s.reason
  resetPending_eq : t.resetPending = s.resetPending
  nmiPending_eq : t.nmiPending = s.nmiPending
  nmiLast_eq : t.nmiLast = s.nmiLast
  fault_eq : t.fault = s.fault

theorem State.takeEntry_effect {s t : State} {k : Nat} (h : s.takeEntry k = some t) : MicroStepEffect s k t := by
  match k, h with
  | 0, h => cases h; constructor <;> simp [State.entryDummyFetch, PushCycle]
  | 1, h =>
    cases h
    by_cases hr : s.reason = .reset <;> constructor <;> simp [State.entryPushPcHigh, State.push_eq, PushCycle, hr]
  | 2, h => cases h; constructor <;> simp [State.entryPushPcLow, State.push_eq]
  | 3, h =>
    cases h
    constructor <;> simp [State.entryPushStatus, State.push_eq, State.setInterruptDisable_eq, State.readP]
  | 4, h => cases h; constructor <;> simp [State.entryReadVectorLow, PushCycle]
  | 5, h => cases h; constructor <;> simp [State.entryReadVectorHigh, PushCycle]
  | 6, h => cases h; constructor <;> simp [State.entryLoadPc, PushCycle]

/-- CYC is no part of the effect. -/
theorem MicroStepEffect.nextCycle {s t : State} {k : Nat} (e : MicroStepEffect s k t) :
    MicroStepEffect s k t.nextCycle :=
  ⟨e.pins_eq, e.regs_eq, e.ad_eq, e.ir_eq, e.reason_eq, e.resetPending_eq, e.nmiPending_eq, e.nmiLast_eq,
    e.fault_eq⟩

/-- The only flag a micro-step writes is I, which micro-step 3 sets (10_state.md R23). -/
theorem MicroStepEffect.flag_eq {s t : State} {k : Nat} (e : MicroStepEffect s k t) (f : Flag) :
    t.flag f = (decide (k = 3 ∧ f = .i) || s.flag f) := by
  by_cases hk : k = 3
  · have hp : t.regs.p = s.setInterruptDisable.regs.p := by simp [e.regs_eq, hk]
    simp [State.flag_congr hp, State.flag_setInterruptDisable, hk]
  · have hp : t.regs.p = s.regs.p := by simp [e.regs_eq, hk]
    simp [State.flag_congr hp, hk]

/-! ### The step -/

/-- At a pair of the dispatch table the step runs its micro-step. -/
theorem step_of_entry {s u : State} (hf : s.fault = none) (hir : s.beginStep.ir = 0x00#8)
    (hu : s.beginStep.takeEntry s.beginStep.cyc = some u) : step s = .next u.nextCycle := by
  simp [step, hf, State.dispatch, hir, decode_zero, exec, execBrk_of_entry hu]

/-- Off the dispatch table the step records the fault. -/
theorem step_of_no_entry {s : State} (hf : s.fault = none) (h : s.beginStep.ir ≠ 0x00#8 ∨ 7 ≤ s.beginStep.cyc) :
    step s = .next s.beginStep.raiseUnimplemented := by
  by_cases hir : s.beginStep.ir = 0x00#8
  · have hcyc : 7 ≤ s.beginStep.cyc := h.resolve_left (absurd hir)
    have hnone := (State.takeEntry_eq_none_iff s.beginStep _).2 hcyc
    simp [step, hf, State.dispatch, hir, decode_zero, exec, execBrk_of_no_entry hnone]
  · simp [step, hf, State.dispatch, decode_of_ne_zero hir]

/-- `step` is total where no fault is recorded (40_step_engine.md R83). -/
theorem step_total {s : State} (hf : s.fault = none) : ∃ t, step s = .next t := by
  by_cases hir : s.beginStep.ir = 0x00#8
  · cases hu : s.beginStep.takeEntry s.beginStep.cyc with
    | some u => exact ⟨_, step_of_entry hf hir hu⟩
    | none => exact ⟨_, step_of_no_entry hf (.inr ((State.takeEntry_eq_none_iff _ _).1 hu))⟩
  · exact ⟨_, step_of_no_entry hf (.inl hir)⟩

/-- Every next state of a step, by its fields: `k` is the cycle index of the micro-step that ran. -/
theorem step_effect {s t : State} (h : step s = .next t) :
    (∃ k ≤ 6, s.beginStep.ir = 0x00#8 ∧ s.beginStep.cyc = k ∧ t.cyc = k + 1 ∧ MicroStepEffect s.beginStep k t ∧
      ∀ j, t.Ran j ↔ k = j) ∨
    ((s.beginStep.ir ≠ 0x00#8 ∨ 7 ≤ s.beginStep.cyc) ∧ t = s.beginStep.raiseUnimplemented ∧ ∀ j, ¬ t.Ran j) := by
  obtain ⟨hf, ⟨hir, u, hu, rfl⟩ | ⟨hoff, rfl⟩⟩ := step_next_cases h
  · left
    have hk : s.beginStep.cyc ≤ 6 := by
      have hne : ¬ 7 ≤ s.beginStep.cyc := fun h7 => by
        rw [(State.takeEntry_eq_none_iff s.beginStep _).2 h7] at hu
        cases hu
      omega
    have e := (State.takeEntry_effect hu).nextCycle
    obtain ⟨-, -, -, -, -, -, hkept, -⟩ := State.takeEntry_frame hu
    have hcyc : u.nextCycle.cyc = s.beginStep.cyc + 1 := congrArg (· + 1) hkept
    exact ⟨_, hk, hir, rfl, hcyc, e, fun j => by simp [State.Ran, hcyc, e.fault_eq, e.ir_eq, hf, hir]⟩
  · exact .inr ⟨hoff, rfl, fun j => by simp [State.Ran]⟩

end Sys2Proof.Machine
end

section
/-! The invariant of the reachable states: the host keeps it, and a step keeps it. The beginning of a step turns the
form of a reachable state into DispatchForm, the form of the state in which phase 3 dispatches; each micro-step, and the
fault record, turns that into the form of a reachable state again. -/

namespace Sys2Proof.Machine

/-- What holds, in a run from power-on, of the state in which a step dispatches (40_step_engine.md R77). -/
structure DispatchForm (b : State) : Prop where
  status : b.StatusForm
  index : b.IndexForm
  fault : b.fault = none
  sync : b.pins.sync = false
  rw : b.pins.rw = true
  phase : b.cyc ≤ 6 ∧ (b.ir ≠ 0x00#8 → b.cyc = 0)
  notIrq : b.reason ≠ .irq
  nmiPending : b.nmiPending = true → b.reason = .reset
  resetPending : b.resetPending = false
  masked : b.flag .i = true ∨ (b.reason = .reset ∧ b.cyc ≤ 3)
  address : b.cyc = 0 → b.pins.addr = b.regs.pc
  scratch : b.ScratchForm

/-- A step inside the sequence only sets RW before it dispatches. -/
theorem dispatchForm_of_not_sync {s : State} (hs : s.ReachableForm) (hf : s.fault = none)
    (hsync : s.pins.sync = false) :
    DispatchForm s.beginStep := by
  obtain ⟨hstatus, hindex, hphase, -, ⟨hirq, hnmi, hreset, hmasked⟩, -, hscratch⟩ := hs
  obtain ⟨hir, hlo, hhi⟩ : s.ir = 0x00#8 ∧ 1 ≤ s.cyc ∧ s.cyc ≤ 6 := by
    simpa [State.PhaseForm, hf, hsync] using hphase
  have hnoReset : s.resetPending = false := by
    cases hr : s.resetPending
    · rfl
    · simpa [hsync] using (hreset hr).2.1
  have hcyc : s.cyc ≠ 0 := by omega
  rw [State.beginStep_of_not_sync hsync]
  exact
    { status := hstatus, index := hindex, fault := hf, sync := hsync, rw := rfl
      phase := ⟨hhi, fun h => absurd hir h⟩
      notIrq := hirq, nmiPending := hnmi, resetPending := hnoReset
      masked := (hmasked hnoReset).imp id fun h => ⟨h.1, h.2.2⟩
      address := fun h => absurd h hcyc
      scratch := hscratch }

/-- Sampling in a reachable fetch state takes no IRQ: I is set there, or the reset request comes first
(60_exceptions.md R118). -/
theorem boundarySample_form {s : State} (hs : s.ReachableForm) (hsync : s.pins.sync = true) :
    s.boundarySample.reason ≠ .irq ∧
      (s.boundarySample.nmiPending = true → s.boundarySample.reason = .reset) ∧
      s.boundarySample.resetPending = false ∧ (s.flag .i = true ∨ s.boundarySample.reason = .reset) := by
  obtain ⟨-, -, -, -, ⟨-, -, -, hmasked⟩, -, -⟩ := hs
  have hI : s.resetPending = false → s.flag .i = true := fun hr => by simpa [hsync] using hmasked hr
  obtain ⟨-, h⟩ | ⟨hr, -, h⟩ | ⟨hr, -, -, hi, -⟩ | ⟨hr, -, -, h⟩ := State.boundarySample_cases s
  · simp [h]
  · simp [h, hr, hI hr]
  · simp [hI hr] at hi
  · simp [h, hr, hI hr]

/-- A fetch step samples and counts from 0. -/
theorem dispatchForm_of_sync {s : State} (hs : s.ReachableForm) (hf : s.fault = none) (hsync : s.pins.sync = true) :
    DispatchForm s.beginStep := by
  obtain ⟨hirq, hnmi, hreset, hmasked⟩ := boundarySample_form hs hsync
  obtain ⟨hstatus, hindex, -, -, -, ⟨haddr, -, -, -⟩, -⟩ := hs
  have hcyc : s.beginStep.cyc = 0 := by simp [State.beginStep_cyc, hsync]
  have hsample : s.beginStep.reason = s.boundarySample.reason ∧
      s.beginStep.nmiPending = s.boundarySample.nmiPending ∧
      s.beginStep.resetPending = s.boundarySample.resetPending := by
    rw [State.beginStep_of_sync hsync]; exact ⟨rfl, rfl, rfl⟩
  obtain ⟨hreason, hpending, hresetPending⟩ := hsample
  exact
    { status := by simpa [State.StatusForm] using hstatus
      index := by simpa [State.IndexForm] using hindex
      fault := by simpa using hf
      sync := by simp
      rw := by simp
      phase := by simp [hcyc]
      notIrq := hreason ▸ hirq
      nmiPending := by rw [hreason, hpending]; exact hnmi
      resetPending := hresetPending ▸ hreset
      masked := by simpa [hcyc, hreason] using hmasked
      address := fun _ => by simpa using haddr (.inl hsync)
      scratch := by simp [State.ScratchForm, hcyc] }

theorem State.ReachableForm.dispatchForm {s : State} (hs : s.ReachableForm) (hf : s.fault = none) :
    DispatchForm s.beginStep := by
  cases hsync : s.pins.sync
  · exact dispatchForm_of_not_sync hs hf hsync
  · exact dispatchForm_of_sync hs hf hsync

/-- A reachable state dispatches off the table at cycle 0 only, on an opcode that is not 0x00
(60_exceptions.md R108). -/
theorem DispatchForm.raiseUnimplemented {b : State} (hb : DispatchForm b) (hoff : b.ir ≠ 0x00#8 ∨ 7 ≤ b.cyc) :
    b.raiseUnimplemented.ReachableForm := by
  have hhi := hb.phase.1
  have hir : b.ir ≠ 0x00#8 := hoff.resolve_right (by omega)
  have hcyc := hb.phase.2 hir
  refine ⟨hb.status, hb.index, ?phase, ?write, ?entry, ?address, hb.scratch⟩
  case phase => simp [State.PhaseForm, hir, hcyc, hb.sync]
  case write => simp [State.WriteForm, hb.rw]
  case entry =>
    refine ⟨hb.notIrq, hb.nmiPending, ?_, fun _ => ?_⟩
    · simp [hb.resetPending]
    · exact hb.masked.imp id fun h => ⟨h.1, hb.sync, h.2⟩
  case address => simp [State.AddressForm, hcyc, hb.address hcyc]

/-! ### A micro-step, part by part -/

section
variable {b t : State} {k : Nat} (hb : DispatchForm b) (e : MicroStepEffect b k t)
  (hk : k ≤ 6) (hbc : b.cyc = k) (htc : t.cyc = k + 1)

include hb e

theorem DispatchForm.microStep_status : t.StatusForm := by
  by_cases h3 : k = 3
  · simpa [State.StatusForm, e.regs_eq, h3] using b.statusForm_setInterruptDisable
  · simpa [State.StatusForm, e.regs_eq, h3] using hb.status

theorem DispatchForm.microStep_index : t.IndexForm := by
  simpa [State.IndexForm, e.regs_eq] using hb.index

include hk htc

theorem DispatchForm.microStep_phase (hir : b.ir = 0x00#8) : t.PhaseForm := by
  have hf : t.fault = none := e.fault_eq.trans hb.fault
  have hi : t.ir = 0x00#8 := e.ir_eq.trans hir
  by_cases h6 : k = 6
  · exact .inl ⟨hf, by simp [e.pins_eq, h6], hi, .inl (by omega)⟩
  · exact .inr (.inl ⟨hf, by simp [e.pins_eq, h6, hb.sync], hi, by omega, by omega⟩)

omit hk

theorem DispatchForm.microStep_write : t.WriteForm := by
  intro hrw
  by_cases hpush : PushCycle k
  · have hreason : b.reason ≠ .reset := by
      intro h
      simp [e.pins_eq, hpush, h, hb.rw] at hrw
    have h6 : k ≠ 6 := by omega
    exact ⟨e.fault_eq.trans hb.fault, by simp [e.pins_eq, h6, hb.sync], by omega, by omega, e.reason_eq ▸ hreason⟩
  · simp [e.pins_eq, hpush, hb.rw] at hrw

include hbc

theorem DispatchForm.microStep_entry : t.EntryForm := by
  refine ⟨e.reason_eq ▸ hb.notIrq, ?_, ?_, fun _ => ?_⟩
  · rw [e.nmiPending_eq, e.reason_eq]
    exact hb.nmiPending
  · simp [e.resetPending_eq, hb.resetPending]
  · by_cases h3 : k = 3
    · exact .inl (by simp [e.flag_eq, h3])
    · refine hb.masked.imp (fun h => by simp [e.flag_eq, h]) fun ⟨hreason, hlt⟩ => ?_
      have h6 : k ≠ 6 := by omega
      exact ⟨e.reason_eq.trans hreason, by simp [e.pins_eq, h6, hb.sync], by omega⟩

theorem DispatchForm.microStep_address : t.AddressForm := by
  obtain ⟨had4, had5, -⟩ := hb.scratch
  refine ⟨fun h => ?_, fun _ h2 h4 => ?_, fun _ h5 => ?_, fun _ h6 => ?_⟩
  · have hk : k = 0 ∨ k = 6 := by
      obtain hs | hc := h
      · by_cases h6 : k = 6
        · exact .inr h6
        · simp [e.pins_eq, hb.sync, h6] at hs
      · omega
    obtain rfl | rfl := hk <;> simp [e.pins_eq, e.regs_eq, PushCycle]
  · have hpush : PushCycle k := by omega
    simp [e.pins_eq, e.regs_eq, hpush]
  · obtain rfl : k = 4 := by omega
    simp [e.pins_eq, e.reason_eq, PushCycle, had4 hbc]
  · obtain rfl : k = 5 := by omega
    simp [e.pins_eq, e.reason_eq, PushCycle, had5 hbc]

include hk

theorem DispatchForm.microStep_scratch : t.ScratchForm := by
  obtain ⟨had4, -, had6⟩ := hb.scratch
  refine ⟨fun h => ?_, fun h => ?_, fun h => ?_⟩
  · obtain rfl : k = 3 := by omega
    simp [e.ad_eq, e.reason_eq]
  · obtain rfl : k = 4 := by omega
    simp [e.ad_eq, e.reason_eq, had4 hbc]
  · obtain rfl | rfl : k = 5 ∨ k = 6 := by omega
    · simp [e.ad_eq]
    · simp [e.ad_eq, had6 (by omega)]

theorem DispatchForm.microStep (hir : b.ir = 0x00#8) : t.ReachableForm :=
  ⟨hb.microStep_status e, hb.microStep_index e, hb.microStep_phase e hk htc hir, hb.microStep_write e htc,
    hb.microStep_entry e hbc htc, hb.microStep_address e hbc htc, hb.microStep_scratch e hk hbc htc⟩

end

/-- Settles O50: the beginning of the step gives DispatchForm, and dispatch gives the form of a reachable state back. -/
theorem stepKeepsTheReachableForm : Obligations.StepKeepsTheReachableForm := by
  intro s t hs h
  have hb := hs.dispatchForm (step_next_cases h).1
  obtain ⟨k, hk, hir, hbc, htc, e, -⟩ | ⟨hoff, rfl, -⟩ := step_effect h
  · exact hb.microStep e hk hbc htc hir
  · exact hb.raiseUnimplemented hoff

/-- Settles O48, part by part. -/
theorem resetHasTheReachableForm : Obligations.ResetHasTheReachableForm :=
  ⟨by decide, by decide, by decide, by decide, by decide, by decide, by decide⟩

/-! ### The host's turn -/

/-- Settles O6, by induction on the list of setter calls. -/
theorem hostTurnReachesOnlyItsThreePins : Obligations.HostTurnReachesOnlyItsThreePins := by
  intro s turn
  induction turn generalizing s with
  | nil => exact ⟨s.pins.data, s.pins.irq, s.pins.nmi, rfl⟩
  | cons a rest ih =>
    obtain ⟨d, irq, nmi, h⟩ := ih (s.act a)
    refine ⟨d, irq, nmi, ?_⟩
    rw [State.hostTurn, h]
    cases a <;> rfl

/-- Settles O49: the form names none of the three pins a turn reaches. -/
theorem hostTurnKeepsTheReachableForm : Obligations.HostTurnKeepsTheReachableForm := by
  intro s turn hs
  obtain ⟨d, irq, nmi, h⟩ := hostTurnReachesOnlyItsThreePins s turn
  rw [h]
  exact hs

end Sys2Proof.Machine
end

section
/-! What a step does with each piece of state: the phase, S, PC, AD, the pins, the flags, and A, X and Y. -/

namespace Sys2Proof.Machine

/-! ### The phase -/

theorem State.phase_eq_fetch_iff (s : State) : s.phase = .fetch ↔ s.fault = none ∧ s.pins.sync = true := by
  cases hf : s.fault <;> simp [State.phase, hf]

theorem State.phase_eq_executing_iff (s : State) (op : Byte) (k : Nat) :
    s.phase = .executing op k ↔ s.fault = none ∧ s.pins.sync = false ∧ s.ir = op ∧ s.cyc = k := by
  cases hf : s.fault <;> cases hs : s.pins.sync <;> simp [State.phase, hf, hs]

theorem State.phase_eq_stuck_iff (s : State) (f : Fault) : s.phase = .stuck f ↔ s.fault = some f := by
  cases hf : s.fault <;> cases hs : s.pins.sync <;> simp [State.phase, hf, hs]

/-- The phase after a step, from the pair it dispatches on (10_state.md R31). -/
theorem phase_of_step {s t : State} (h : step s = .next t) :
    t.phase =
      if s.beginStep.ir = 0x00#8 ∧ s.beginStep.cyc ≤ 6 then
        if s.beginStep.cyc = 6 then .fetch else .executing 0x00#8 (s.beginStep.cyc + 1)
      else .stuck (.unimplementedInstruction s.beginStep.ir s.beginStep.cyc) := by
  obtain ⟨k, hk, hir, hbc, htc, e, -⟩ | ⟨hoff, rfl, -⟩ := step_effect h
  · have hf : t.fault = none := by simp [e.fault_eq, (step_next_cases h).1]
    rw [if_pos ⟨hir, hbc ▸ hk⟩, hbc]
    by_cases h6 : k = 6
    · rw [if_pos h6, State.phase_eq_fetch_iff]
      exact ⟨hf, by simp [e.pins_eq, h6]⟩
    · rw [if_neg h6, State.phase_eq_executing_iff]
      exact ⟨hf, by simp [e.pins_eq, h6], e.ir_eq.trans hir, htc⟩
  · have hnot : ¬ (s.beginStep.ir = 0x00#8 ∧ s.beginStep.cyc ≤ 6) := fun ⟨hir, hle⟩ =>
      hoff.elim (· hir) (by omega)
    rw [if_neg hnot, State.phase_eq_stuck_iff, State.raiseUnimplemented_fault]

/-- A state inside an instruction dispatches on the pair of its phase. -/
theorem step_of_executing {s : State} {op : Byte} {k : Nat} (h : s.phase = .executing op k) :
    ∃ t, step s = .next t ∧
      t.phase =
        if op = 0x00#8 ∧ k ≤ 6 then if k = 6 then .fetch else .executing 0x00#8 (k + 1)
        else .stuck (.unimplementedInstruction op k) := by
  obtain ⟨hf, hsync, rfl, rfl⟩ := (State.phase_eq_executing_iff s op k).1 h
  obtain ⟨t, ht⟩ := step_total hf
  exact ⟨t, ht, by simpa [State.beginStep_ir_of_not_sync hsync, State.beginStep_cyc, hsync] using phase_of_step ht⟩

/-- Settles O20: each clause is `phase_of_step` at the pair that the phase before the step gives. -/
theorem engineCyclesThroughItsPhases : Obligations.EngineCyclesThroughItsPhases := by
  intro s
  refine ⟨fun h => ?fetch, fun k hk h => ?inside, fun h => ?final, fun op k hoff h => ?off, fun f h => ?stuck⟩
  case fetch =>
    obtain ⟨hf, hsync⟩ := s.phase_eq_fetch_iff.1 h
    obtain ⟨t, ht⟩ := step_total hf
    have hphase := phase_of_step ht
    have hcyc : s.beginStep.cyc = 0 := by simp [State.beginStep_cyc, hsync]
    refine ⟨t, ht, ?_⟩
    by_cases hir : s.beginStep.ir = 0x00#8
    · exact .inl (by simpa [hir, hcyc] using hphase)
    · exact .inr ⟨_, hir, by simpa [hir, hcyc] using hphase⟩
  case inside =>
    obtain ⟨t, ht, hphase⟩ := step_of_executing h
    exact ⟨t, ht, by rw [hphase, if_pos ⟨rfl, by omega⟩, if_neg (by omega)]⟩
  case final => exact step_of_executing h
  case off =>
    obtain ⟨t, ht, hphase⟩ := step_of_executing h
    have hnot : ¬ (op = 0x00#8 ∧ k ≤ 6) := fun ⟨hop, hle⟩ => hoff.elim (· hop) (by omega)
    exact ⟨t, ht, by rw [hphase, if_neg hnot]⟩
  case stuck => simp [step, (s.phase_eq_stuck_iff f).1 h]

/-! ### The registers and the pins -/

/-- Settles O35: the push cycles are the ones whose effect names S; a fault changes no register. -/
theorem stackPointerMovesByPushesOnly : Obligations.StackPointerMovesByPushesOnly := by
  intro s hf
  obtain ⟨t, ht⟩ := step_total hf
  refine ⟨t, ht, ?_⟩
  obtain ⟨k, -, -, -, -, e, hran⟩ | ⟨-, rfl, hran⟩ := step_effect ht
  · simp only [State.RanPush, hran]
    refine ⟨fun hpush => ?_, fun hpush => ?_⟩
    · simp [e.regs_eq, e.pins_eq, hpush, stackAddress]
    · simp [e.regs_eq, hpush]
  · simp only [State.RanPush, hran]
    simp

/-- Settles O36, from what a micro-step leaves in PC; BRK_PC_ADVANCE is not 0 for a SoftwareBreak only. -/
theorem programCounterMovesAtCyclesOneAndSix : Obligations.ProgramCounterMovesAtCyclesOneAndSix := by
  intro s hf
  obtain ⟨t, ht⟩ := step_total hf
  refine ⟨t, ht, ?_⟩
  obtain ⟨k, -, -, -, -, e, hran⟩ | ⟨-, rfl, hran⟩ := step_effect ht
  · simp only [hran, e.reason_eq, e.regs_eq, State.beginStep_regs, State.beginStep_pins, State.beginStep_ad,
      pcAdvance_eq]
    by_cases h1 : k = 1
    · by_cases hr : s.beginStep.reason = .softwareBreak <;> simp [h1, hr]
    · simp [h1, joinBytes, lowByte]
  · simp [hran]

/-- Settles O37, from what a micro-step leaves in AD. -/
theorem scratchRegisterIsWrittenAtCyclesThreeToFive : Obligations.ScratchRegisterIsWrittenAtCyclesThreeToFive := by
  intro s hf
  obtain ⟨t, ht⟩ := step_total hf
  refine ⟨t, ht, ?_⟩
  obtain ⟨k, -, -, -, -, e, hran⟩ | ⟨-, rfl, hran⟩ := step_effect ht
  · simp [hran, e.ad_eq, e.reason_eq, zext16]
  · simp [hran]

/-- Settles O38: no micro-step names IRQ or NMI, only a push names DATA, and a fault leaves every pin. -/
theorem pinsHoldWhatNoMicroStepAsserts : Obligations.PinsHoldWhatNoMicroStepAsserts := by
  intro s hf
  obtain ⟨t, ht⟩ := step_total hf
  refine ⟨t, ht, ?_⟩
  obtain ⟨k, -, -, -, -, e, hran⟩ | ⟨-, rfl, -⟩ := step_effect ht
  · have hnofault : t.fault = none := by simp [e.fault_eq, hf]
    refine ⟨by simp [e.pins_eq], by simp [e.pins_eq], fun hpush => ?_, fun h => absurd hnofault h⟩
    simp only [State.RanPush, hran, not_or] at hpush
    simp [e.pins_eq, hpush]
  · simp

/-- Settles O39, from what a micro-step leaves in each flag. -/
theorem onlyInterruptDisableIsEverWritten : Obligations.OnlyInterruptDisableIsEverWritten := by
  intro s hf
  obtain ⟨t, ht⟩ := step_total hf
  refine ⟨t, ht, ?_⟩
  obtain ⟨k, -, -, -, -, e, hran⟩ | ⟨-, rfl, hran⟩ := step_effect ht
  · simp +contextual [hran, e.flag_eq]
  · have hflag : ∀ f, s.beginStep.raiseUnimplemented.flag f = s.flag f := fun f => State.flag_congr (by simp) f
    simp [hran, hflag]

/-! ### A, X and Y -/

/-- The state with other values in A, X and Y. -/
def State.withIndex (s : State) (a x y : Byte) : State := { s with regs := { s.regs with a := a, x := x, y := y } }

theorem State.boundarySample_withIndex (s : State) (a x y : Byte) :
    (s.withIndex a x y).boundarySample = s.boundarySample.withIndex a x y := by
  have hflag : (s.withIndex a x y).detectNmiEdge.flag .i = s.detectNmiEdge.flag .i := rfl
  simp only [State.boundarySample, hflag, apply_ite (State.withIndex · a x y)]
  rfl

theorem State.beginStep_withIndex (s : State) (a x y : Byte) :
    (s.withIndex a x y).beginStep = s.beginStep.withIndex a x y := by
  have hpins : (s.withIndex a x y).pins = s.pins := rfl
  cases h : s.pins.sync
  · rw [State.beginStep_of_not_sync h, State.beginStep_of_not_sync (hpins ▸ h)]
    rfl
  · rw [State.beginStep_of_sync h, State.beginStep_of_sync (hpins ▸ h), State.boundarySample_withIndex]
    rfl

theorem State.push_withIndex (s : State) (v a x y : Byte) :
    (s.withIndex a x y).push v = (s.push v).withIndex a x y := by
  simp only [State.push_eq]
  rfl

theorem State.takeEntry_withIndex {s u : State} {k : Nat} (h : s.takeEntry k = some u) (a x y : Byte) :
    (s.withIndex a x y).takeEntry k = some (u.withIndex a x y) := by
  match k, h with
  | 0, h | 4, h | 5, h | 6, h => cases h; rfl
  | 1, h => cases h; exact congrArg some (State.push_withIndex (s.writePc (s.regs.pc + pcAdvance s.reason)) _ a x y)
  | 2, h => cases h; exact congrArg some (State.push_withIndex s _ a x y)
  | 3, h =>
    cases h
    exact congrArg (fun r : State => some (r.writeAd (vector r.reason)).setInterruptDisable)
      (State.push_withIndex s _ a x y)

/-- A step commutes with any change of A, X and Y. -/
theorem step_withIndex {s t : State} (h : step s = .next t) (a x y : Byte) :
    step (s.withIndex a x y) = .next (t.withIndex a x y) := by
  have hbegin := s.beginStep_withIndex a x y
  obtain ⟨hf, ⟨hir, u, hu, rfl⟩ | ⟨hoff, rfl⟩⟩ := step_next_cases h
  · have hu' := State.takeEntry_withIndex hu a x y
    exact step_of_entry (u := u.withIndex a x y) hf (by rw [hbegin]; exact hir) (by rw [hbegin]; exact hu')
  · have hstep := step_of_no_entry (s := s.withIndex a x y) hf (by rw [hbegin]; exact hoff)
    rw [hstep, hbegin]
    rfl

/-- Settles O42: a micro-step has no destination among A, X and Y, and the step commutes with their values. -/
theorem indexRegistersAreInert : Obligations.IndexRegistersAreInert := by
  intro s hf
  obtain ⟨t, ht⟩ := step_total hf
  have hregs : t.regs.a = s.regs.a ∧ t.regs.x = s.regs.x ∧ t.regs.y = s.regs.y := by
    obtain ⟨k, -, -, -, -, e, -⟩ | ⟨-, rfl, -⟩ := step_effect ht
    · simp [e.regs_eq]
    · simp
  obtain ⟨ha, hx, hy⟩ := hregs
  exact ⟨t, ht, ha, hx, hy, step_withIndex ht⟩

/-! ### The power-on state and the layout of P -/

/-- Settles O1: the stored fields stand in the definition; P and its flags are read from the byte 0x22. -/
theorem resetIsThePowerOnState : Obligations.ResetIsThePowerOnState := by
  refine ⟨rfl, rfl, rfl, rfl, rfl, rfl, ?readP, ?z, ?c, ?i, ?d, ?v, ?n, rfl, rfl, rfl, rfl, rfl, rfl, rfl, rfl, rfl⟩
  all_goals decide

/-- Settles O40: the two reserved bits are fixed by every read, and every other bit is passed through. -/
theorem reservedStatusBitsAreFixed : Obligations.ReservedStatusBitsAreFixed := by
  intro s
  have hread : ∀ u : State, u.readP.getLsbD 5 = true ∧ u.readP.getLsbD 4 = false := fun u =>
    ⟨u.getLsbD_readP 5, u.getLsbD_readP 4⟩
  refine ⟨(hread s).1, (hread s).2, fun v => ⟨(hread _).1, (hread _).2, fun k h4 h5 => ?write⟩,
    fun r => ⟨getLsbD_pushedImage r _ 5, ?brk, fun k h4 h5 => ?image⟩⟩
  case write => simp [getLsbD_fixReserved, h4, h5]
  case brk => rw [getLsbD_pushedImage, (hread s).2]; rfl
  case image => simp [getLsbD_pushedImage, h4, h5]

/-- Settles O41: a flag's position is not one of the two bits that a read of P fixes. -/
theorem flagsStandAtTheirPositions : Obligations.FlagsStandAtTheirPositions := by
  intro s
  have hstored : ∀ f : Flag, s.flag f = s.regs.p.getLsbD f.position := fun f => by
    rw [State.flag, State.getLsbD_readP]
    cases f <;> rfl
  exact ⟨rfl, rfl, rfl, rfl, s.getLsbD_readP 4, s.getLsbD_readP 5, rfl, rfl, hstored .c, hstored .z, hstored .i,
    hstored .d, hstored .v, hstored .n⟩

end Sys2Proof.Machine
end

section
/-! The pin interface and the reference host: what the accessors and setters do, the fetched byte that a requested entry
discards, the reset that nothing services, and one round of the reference host. -/

namespace Sys2Proof.Machine

/-! ### One round of the reference host -/

/-- On a read cycle the lines are set, DATA is answered with the byte at ADDR, and the memory is kept (R39, R62). -/
theorem RefHost.service_setLines_of_read {h : RefHost} (hrw : h.core.pins.rw = true) (l : Lines) :
    (h.setLines l).service =
      { core := ((h.core.setIRQ l.irq).setNMI l.nmi).setData (h.mem.read h.core.pins.addr).toNat, mem := h.mem } := by
  simp [RefHost.service, RefHost.setLines, State.busCycle, hrw]

/-- On a write cycle the lines are set and DATA is committed to the byte at ADDR (R40, R62). -/
theorem RefHost.service_setLines_of_write {h : RefHost} (hrw : h.core.pins.rw = false) (l : Lines) :
    (h.setLines l).service =
      { core := (h.core.setIRQ l.irq).setNMI l.nmi, mem := h.mem.write h.core.pins.addr h.core.pins.data } := by
  simp [RefHost.service, RefHost.setLines, State.busCycle, hrw]

/-- A round is the step of the serviced core; the step does not reach the memory (R35). -/
theorem RefHost.round_of_step {h : RefHost} {l : Lines} {c : State} (hc : step (h.setLines l).service.core = .next c) :
    h.round l = .next { core := c, mem := (h.setLines l).service.mem } := by
  simp [RefHost.round, hc]

/-- The lines and the service record no fault, so a core without one has a next state in the round (R83). -/
theorem RefHost.step_service_total {h : RefHost} (hf : h.core.fault = none) (l : Lines) :
    ∃ c, step (h.setLines l).service.core = .next c := by
  apply step_total
  rw [RefHost.service_eq]
  split <;> exact hf

/-- Settles O53, by the direction of the bus cycle; on a write the memory reads by `Memory.read_write`. -/
theorem roundChangesOnlyTheWrittenByte : Obligations.RoundChangesOnlyTheWrittenByte := by
  intro h l hwf hf
  obtain ⟨c, hc⟩ := RefHost.step_service_total hf l
  refine ⟨_, RefHost.round_of_step hc, fun hrw => ?read, fun hrw => ?write⟩
  case read =>
    rw [RefHost.service_setLines_of_read hrw] at hc ⊢
    exact ⟨rfl, hc⟩
  case write =>
    rw [RefHost.service_setLines_of_write hrw] at hc ⊢
    exact ⟨hc, fun a => Memory.read_write hwf h.core.pins.addr a h.core.pins.data⟩

/-! ### The byte that a requested entry discards -/

/-- No entry is requested exactly where sampling takes its last branch, the fetched opcode (60_exceptions.md R101). -/
theorem State.not_entryRequested_iff (s : State) :
    ¬ s.EntryRequested ↔
      s.resetPending = false ∧ (s.nmiPending || (s.pins.nmi && !s.nmiLast)) = false ∧
        (s.pins.irq && !s.flag .i) = false := by
  simp only [State.EntryRequested, not_or, and_assoc, ← Bool.not_eq_true, Bool.or_eq_true, Bool.and_eq_true,
    Bool.not_eq_true']

/-- A requested entry injects opcode 0x00 (60_exceptions.md R101). -/
theorem State.boundarySample_ir_of_entryRequested {s : State} (h : s.EntryRequested) :
    s.boundarySample.ir = 0x00#8 := by
  obtain ⟨-, hs⟩ | ⟨-, -, hs⟩ | ⟨-, -, -, -, hs⟩ | ⟨hreset, hedge, hirq, -⟩ := s.boundarySample_cases
  · rw [hs]
  · rw [hs]
  · rw [hs]
  · have hline : (s.pins.irq && !s.flag .i) = false := by
      rw [Bool.and_eq_false_iff, Bool.not_eq_false']
      exact hirq
    exact absurd h (s.not_entryRequested_iff.2 ⟨hreset, hedge, hline⟩)

/-- Where an entry is requested, sampling does not read DATA. -/
theorem State.boundarySample_setData {s : State} (h : s.EntryRequested) (v : Nat) :
    (s.setData v).boundarySample = s.boundarySample.setData v := by
  have hflag : (s.setData v).detectNmiEdge.flag .i = s.flag .i := rfl
  have hflag' : s.detectNmiEdge.flag .i = s.flag .i := rfl
  simp only [State.boundarySample, hflag, hflag', apply_ite (State.setData · v)]
  refine ite_congr rfl (fun _ => rfl) fun hreset => ite_congr rfl (fun _ => rfl) fun hedge =>
    ite_congr rfl (fun _ => rfl) fun hirq => absurd h (s.not_entryRequested_iff.2 ⟨?_, ?_, ?_⟩)
  · exact eq_false_of_ne_true hreset
  · exact eq_false_of_ne_true hedge
  · exact eq_false_of_ne_true hirq

/-- Nor does the beginning of the step. -/
theorem State.beginStep_setData {s : State} (hsync : s.pins.sync = true) (h : s.EntryRequested) (v : Nat) :
    (s.setData v).beginStep = s.beginStep.setData v := by
  rw [State.beginStep_of_sync hsync, State.beginStep_of_sync (s := s.setData v) hsync, State.boundarySample_setData h]
  rfl

/-- A fetch step that takes an entry runs micro-step (0x00, 0). -/
theorem step_of_entryRequested {s : State} (hf : s.fault = none) (hsync : s.pins.sync = true)
    (h : s.EntryRequested) : step s = .next s.beginStep.entryDummyFetch.nextCycle := by
  rw [step_of_entry hf]
  · rw [State.beginStep_of_sync hsync]
    exact State.boundarySample_ir_of_entryRequested h
  · rw [State.beginStep_cyc, if_pos hsync]
    rfl

/-- Its next state is the same for every byte the host delivered, but for DATA itself (60_exceptions.md R105). -/
theorem step_setData_of_entryRequested {s : State} (hf : s.fault = none) (hsync : s.pins.sync = true)
    (h : s.EntryRequested) (v : Nat) :
    step (s.setData v) = .next (s.beginStep.entryDummyFetch.nextCycle.setData v) := by
  rw [step_of_entryRequested (s := s.setData v) hf hsync h, State.beginStep_setData hsync h]
  rfl

/-- Settles O2: at power-on a reset entry is requested. -/
theorem powerOnFetchDataIsNeverUsed : Obligations.PowerOnFetchDataIsNeverUsed :=
  have hreset : State.reset.EntryRequested := .inl rfl
  ⟨rfl, rfl, rfl, _, step_of_entryRequested rfl rfl hreset, rfl, rfl,
    step_setData_of_entryRequested rfl rfl hreset⟩

/-! ### The accessors and the setters -/

/-- The kind of the bus cycle is RW (R37). -/
theorem State.busCycle_kind_eq_read_iff (s : State) : s.busCycle.kind = .read ↔ s.pins.rw = true := by
  cases h : s.pins.rw <;> simp [State.busCycle, h]

/-- Settles O3: the fields of the bus cycle are the pins; the three bits go by their two values. -/
theorem pinAccessorsAndBusCycleReadThePins : Obligations.PinAccessorsAndBusCycleReadThePins := fun s =>
  have hbit : ∀ b : Bool, BitVec.ofBool b = 1#1 ↔ b = true := fun _ => BitVec.ofBool_eq_iff_eq (b' := true)
  ⟨rfl, rfl, hbit s.pins.rw, hbit s.pins.sync, s.busCycle_kind_eq_read_iff, rfl, rfl, rfl⟩

/-- Settles O4: a byte holds its argument modulo 2^8. -/
theorem setDataWritesTheLowEightBits : Obligations.SetDataWritesTheLowEightBits := fun _ v =>
  ⟨rfl, BitVec.toNat_ofNat v 8, rfl, rfl, rfl⟩

/-- Settles O5: each setter is the update of its own line. -/
theorem lineSettersWriteTheirLine : Obligations.LineSettersWriteTheirLine := fun _ _ => ⟨rfl, rfl⟩

/-! ### The reset that nothing services -/

/-- Settles O7, by running the seven steps of V-K4. -/
theorem unservicedResetLoadsTheStaleByte : Obligations.UnservicedResetLoadsTheStaleByte :=
  ⟨_, rfl, rfl, rfl, rfl, rfl⟩

end Sys2Proof.Machine
end

section
/-! The decoder and the encoder, the listing, and the two kinds of fetch step: one that takes a requested entry and
discards the fetched byte, and one that dispatches on it. -/

namespace Sys2Proof.Machine

/-! ### The fetch step that takes a requested entry -/

/-- Settles O16: the step runs micro-step (0x00, 0), which reads no DATA. -/
theorem entryRequestDiscardsTheFetchedByte : Obligations.EntryRequestDiscardsTheFetchedByte := by
  intro s hf hsync hreq
  have hir : s.beginStep.ir = 0x00#8 := by
    rw [State.beginStep_of_sync hsync]
    exact State.boundarySample_ir_of_entryRequested hreq
  have hcyc : s.beginStep.cyc = 0 := by rw [State.beginStep_cyc, if_pos hsync]
  exact ⟨_, step_of_entryRequested hf hsync hreq, s.beginStep_fault.trans hf, hir, congrArg (· + 1) hcyc,
    congrArg Registers.pc s.beginStep_regs, step_setData_of_entryRequested hf hsync hreq⟩

/-! ### The fetch step that finds no entry requested -/

/-- With no entry requested, sampling latches the byte on DATA (60_exceptions.md R101). -/
theorem State.boundarySample_of_not_entryRequested {s : State} (h : ¬ s.EntryRequested) :
    s.boundarySample =
      { s with ir := s.pins.data, reason := .softwareBreak, nmiLast := s.pins.nmi, nmiPending := false } := by
  obtain ⟨hreset, -⟩ | ⟨-, hedge, -⟩ | ⟨-, -, hirq, hmask, -⟩ | ⟨-, -, -, hs⟩ := s.boundarySample_cases
  · exact absurd (.inl hreset) h
  · obtain ⟨-, hno, -⟩ := s.not_entryRequested_iff.1 h
    exact absurd hedge (Bool.eq_false_iff.1 hno)
  · exact absurd (.inr (.inr (.inr ⟨hirq, hmask⟩))) h
  · exact hs

/-- The state in which such a fetch step dispatches (40_step_engine.md R75, R76). -/
theorem State.beginStep_of_not_entryRequested {s : State} (hsync : s.pins.sync = true) (h : ¬ s.EntryRequested) :
    s.beginStep =
      { s with
        pins := { s.pins with sync := false, rw := true }
        ir := s.pins.data
        cyc := 0
        reason := .softwareBreak
        nmiLast := s.pins.nmi
        nmiPending := false } := by
  rw [State.beginStep_of_sync hsync, State.boundarySample_of_not_entryRequested h]

/-- Settles O32: the fetched byte is in IR and is off the dispatch table. -/
theorem everyOpcodeButZeroFaultsAtItsFetch : Obligations.EveryOpcodeButZeroFaultsAtItsFetch := by
  intro s hf hsync hreq hdata
  have hbegin := State.beginStep_of_not_entryRequested hsync hreq
  have hstep := step_of_no_entry hf (.inl (by rw [hbegin]; exact hdata))
  obtain ⟨-, hedge, -⟩ := s.not_entryRequested_iff.1 hreq
  obtain ⟨hpending, -⟩ := Bool.or_eq_false_iff.1 hedge
  rw [hbegin] at hstep
  exact ⟨_, hstep, rfl, rfl, rfl, rfl, rfl, rfl, hpending.symm, rfl⟩

/-! ### A word placed where a step fetches -/

/-- A step whose IR decodes to an instruction runs it (40_step_engine.md R77, R79). -/
theorem step_of_decode {s : State} {i : Instr} (hf : s.fault = none) (h : decode s.beginStep.ir = .instr i) :
    step s = exec i s.beginStep := by
  simp [step, hf, State.dispatch, h]

/-- The table's reading of a word is the decoder's verdict on its byte. -/
theorem decodeTableWord_eq_some_iff (nbits w : Nat) (i : Instr) :
    decodeTableWord nbits w = some i ↔ decode (tableByte nbits w) = .instr i := by
  cases h : decode (tableByte nbits w) <;> simp [decodeTableWord, h]

/-- Presenting an opcode clears all four requests (log 6). -/
theorem State.not_entryRequested_presentOpcode (s : State) (b : Byte) : ¬ (s.presentOpcode b).EntryRequested :=
  (s.presentOpcode b).not_entryRequested_iff.2 ⟨rfl, rfl, rfl⟩

/-- Settles O13: `b` is the state in which the fetch step of the placed word dispatches. -/
theorem placedWordIsFetchedAndRun : Obligations.PlacedWordIsFetchedAndRun := by
  intro s nbits w i hword
  have hbegin := State.beginStep_of_not_entryRequested (s := s.withFetchWord nbits w) rfl
    (s.not_entryRequested_presentOpcode (tableByte nbits w))
  have hstep : step (s.withFetchWord nbits w) = exec i (s.withFetchWord nbits w).beginStep := by
    refine step_of_decode rfl ?_
    rw [hbegin]
    exact (decodeTableWord_eq_some_iff nbits w i).1 hword
  refine ⟨(s.withFetchWord nbits w).beginStep, ?_⟩
  rw [hstep, hbegin]
  exact ⟨rfl, rfl, rfl, rfl, rfl, rfl, rfl, rfl, rfl, rfl⟩

/-! ### The decoder and the encoder -/

/-- Settles O8, by the decoder's two answers. -/
theorem decoderIsTotalOnBytes : Obligations.DecoderIsTotalOnBytes := fun _ =>
  ⟨fun h => h ▸ decode_zero, decode_of_ne_zero⟩

/-- The bytes that decode to an instruction are its encodings (30_encoding.md R67). -/
theorem decode_eq_instr_iff (b : Byte) (i : Instr) : decode b = .instr i ↔ b = encode i := by
  cases i with
  | brk =>
    by_cases hb : b = 0x00#8
    · simp [hb, decode_zero, encode]
    · simp [hb, decode_of_ne_zero hb, encode]

/-- Settles O9: the statement of each instruction, and the bytes that decode to it. -/
theorem decodeAndEncodeAgree : Obligations.DecodeAndEncodeAgree := by
  refine ⟨fun i => ?_, decode_eq_instr_iff⟩
  cases i with
  | brk => exact Sys2Proof.Laws.Encoding.brk

/-- Settles O10, by reading each of the four words. -/
theorem opcodeWordsDecodeAsWritten : Obligations.OpcodeWordsDecodeAsWritten :=
  ⟨rfl, rfl, rfl, rfl⟩

/-! ### The listing -/

/-- Settles O11: each clause is an equation of the assembler. -/
theorem listingLinesAssembleAsWritten : Obligations.ListingLinesAssembleAsWritten :=
  ⟨fun _ => rfl, fun _ _ _ => ⟨rfl, rfl, fun _ _ => rfl, fun _ => rfl⟩⟩

end Sys2Proof.Machine
end

section
/-! The engine: where a step exists, which instruction it runs, where it faults, how CYC and SYNC follow its
micro-steps, when it reads the interrupt lines, and the frame of BRK. -/

namespace Sys2Proof.Machine

/-! ### Where a step exists -/

/-- A recorded fault is all that a step answers (40_step_engine.md R74). -/
theorem step_of_fault {s : State} {f : Fault} (hf : s.fault = some f) : step s = .fault f := by
  simp [step, hf]

/-- Settles O14: the step is total where no fault is recorded, and answers the record elsewhere. -/
theorem stepIsTotalExactlyWithoutAFault : Obligations.StepIsTotalExactlyWithoutAFault := fun _ =>
  ⟨step_total, fun _ => step_of_fault⟩

/-! ### The instruction that a step runs -/

/-- A byte that decodes to no instruction is off the dispatch table (40_step_engine.md R77). -/
theorem ne_zero_of_decode_unimplemented {b b' : Byte} (h : decode b = .unimplemented b') : b ≠ 0x00#8 := by
  rintro rfl
  cases decode_zero.symm.trans h

/-- Settles O12: the decoder's two answers are the two kinds of dispatch. -/
theorem stepRunsTheDecodedInstruction : Obligations.StepRunsTheDecodedInstruction := fun _ hf =>
  ⟨fun _ => step_of_decode hf, fun _ h => step_of_no_entry hf (.inl (ne_zero_of_decode_unimplemented h))⟩

/-! ### The fault -/

/-- A step faults exactly off the dispatch table (40_step_engine.md R77). -/
theorem step_fault_eq_none_iff {s t : State} (h : step s = .next t) :
    t.fault = none ↔ s.beginStep.ir = 0x00#8 ∧ s.beginStep.cyc ≤ 6 := by
  obtain ⟨k, hk, hir, hbc, -, e, -⟩ | ⟨hoff, rfl, -⟩ := step_effect h
  · have hnofault : t.fault = none := by simp [e.fault_eq, (step_next_cases h).1]
    exact iff_of_true hnofault ⟨hir, hbc ▸ hk⟩
  · exact iff_of_false (Option.some_ne_none _) fun ⟨hir, hle⟩ => hoff.elim (· hir) (by omega)

/-- Settles O30, by `step_fault_eq_none_iff`. -/
theorem faultExactlyOffTheDispatchTable : Obligations.FaultExactlyOffTheDispatchTable := fun _ hf =>
  let ⟨t, ht⟩ := step_total hf
  ⟨t, ht, step_fault_eq_none_iff ht⟩

/-- Settles O31: the fault record is added to what the beginning of the step left. -/
theorem unimplementedPairIsRecordedAndFatal : Obligations.UnimplementedPairIsRecordedAndFatal := by
  intro s hf hoff
  refine ⟨_, step_of_no_entry hf hoff, rfl, s.beginStep_pins, s.beginStep_regs, s.beginStep_ad, fun hsync => ?_,
    step_of_fault rfl⟩
  exact s.beginStep_cyc.trans (if_pos hsync)

/-- Settles O28: the dispatch table has no entry past cycle index 6. -/
theorem brkPastItsLastCycleRecordsTheFault : Obligations.BrkPastItsLastCycleRecordsTheFault := fun s h =>
  execBrk_of_no_entry ((s.takeEntry_eq_none_iff s.cyc).2 h)

/-! ### CYC and SYNC -/

/-- Settles O19: the beginning of the step sets what CYC counts from, and only a micro-step adds to it. -/
theorem cycleIndexCountsFromTheFetchStep : Obligations.CycleIndexCountsFromTheFetchStep := by
  intro s hf
  obtain ⟨t, ht⟩ := step_total hf
  refine ⟨t, ht, ?_⟩
  rw [← State.beginStep_cyc]
  obtain ⟨k, -, -, hbc, htc, e, -⟩ | ⟨-, rfl, -⟩ := step_effect ht
  · have hnofault : t.fault = none := by simp [e.fault_eq, hf]
    rw [if_pos hnofault, hbc, htc]
  · simp

/-- Settles O34: the beginning of the step clears SYNC, and only micro-step (0x00, 6) sets it. -/
theorem syncMarksTheFinalMicroStep : Obligations.SyncMarksTheFinalMicroStep := by
  refine ⟨rfl, fun s hf => ?_⟩
  obtain ⟨t, ht⟩ := step_total hf
  refine ⟨t, ht, ?_⟩
  obtain ⟨k, -, -, -, -, e, hran⟩ | ⟨-, rfl, hran⟩ := step_effect ht
  · simp [hran, e.pins_eq]
  · simp [hran]

/-! ### The interrupt lines -/

/-- The state with other levels on IRQ and NMI. -/
def State.withLines (s : State) (irq nmi : Bool) : State := (s.setIRQ irq).setNMI nmi

/-- A micro-step commutes with any change of the lines. -/
theorem State.takeEntry_withLines {s u : State} {k : Nat} (h : s.takeEntry k = some u) (irq nmi : Bool) :
    (s.withLines irq nmi).takeEntry k = some (u.withLines irq nmi) := by
  match k, h with
  | 0, h | 4, h | 5, h | 6, h => cases h; rfl
  | 1, h | 2, h | 3, h =>
    cases h
    simp only [State.takeEntry, State.entryPushPcHigh, State.entryPushPcLow, State.entryPushStatus, State.push_eq]
    rfl

/-- So does a step that does not sample (40_step_engine.md R84). -/
theorem step_withLines_of_not_sync {s t : State} (hsync : s.pins.sync = false) (h : step s = .next t)
    (irq nmi : Bool) : step (s.withLines irq nmi) = .next (t.withLines irq nmi) := by
  have hbegin : (s.withLines irq nmi).beginStep = s.beginStep.withLines irq nmi := by
    rw [State.beginStep_of_not_sync hsync, State.beginStep_of_not_sync (s := s.withLines irq nmi) hsync]
    rfl
  obtain ⟨hf, ⟨hir, u, hu, rfl⟩ | ⟨hoff, rfl⟩⟩ := step_next_cases h
  · have hu' := State.takeEntry_withLines hu irq nmi
    exact step_of_entry (u := u.withLines irq nmi) hf (by rw [hbegin]; exact hir) (by rw [hbegin]; exact hu')
  · have hstep := step_of_no_entry (s := s.withLines irq nmi) hf (by rw [hbegin]; exact hoff)
    rw [hstep, hbegin]
    rfl

/-- Settles O17, by `step_withLines_of_not_sync`. -/
theorem linesAreReadAtFetchStepsOnly : Obligations.LinesAreReadAtFetchStepsOnly := fun _ hf hsync =>
  let ⟨t, ht⟩ := step_total hf
  ⟨t, ht, step_withLines_of_not_sync hsync ht⟩

/-! ### The frame of BRK -/

/-- Every next state of BRK, by its fields: the micro-step at CYC, or the fault record past cycle index 6. -/
theorem execBrk_effect (s : State) :
    (s.cyc ≤ 6 ∧ ∃ t, execBrk s = .next t ∧ MicroStepEffect s s.cyc t) ∨
      (7 ≤ s.cyc ∧ execBrk s = .next s.raiseUnimplemented) := by
  cases hu : s.takeEntry s.cyc with
  | some u =>
    have hcyc : ¬ 7 ≤ s.cyc := fun h7 => by
      rw [(s.takeEntry_eq_none_iff _).2 h7] at hu
      cases hu
    exact .inl ⟨by omega, _, execBrk_of_entry hu, (State.takeEntry_effect hu).nextCycle⟩
  | none => exact .inr ⟨(s.takeEntry_eq_none_iff _).1 hu, execBrk_of_no_entry hu⟩

/-- A micro-step that is no push leaves DATA, RW and S. -/
theorem MicroStepEffect.kept_of_not_push {s t : State} {k : Nat} (e : MicroStepEffect s k t) (hk : ¬ PushCycle k) :
    t.pins.data = s.pins.data ∧ t.pins.rw = s.pins.rw ∧ t.regs.s = s.regs.s := by
  obtain ⟨h1, h2, h3⟩ : k ≠ 1 ∧ k ≠ 2 ∧ k ≠ 3 := by omega
  simp only [e.pins_eq, e.regs_eq, hk, h1, h2, h3, if_false, and_self]

/-- A write cycle is begun by a push, at the stack address of the decremented S (41_brk_sequence.md R91-R93). -/
theorem MicroStepEffect.addr_of_write {s t : State} {k : Nat} (e : MicroStepEffect s k t)
    (hs : s.pins.rw = true) (ht : t.pins.rw = false) : t.pins.addr = stackAddress (s.regs.s - 1#8) := by
  by_cases hk : PushCycle k
  · simp [e.pins_eq, hk]
  · obtain ⟨-, hrw, -⟩ := e.kept_of_not_push hk
    simp [hrw, hs] at ht

/-- Settles O29: a micro-step by its effect, field by field; a fault record changes no field but FAULT. -/
theorem brkChangesOnlyItsDestinations : Obligations.BrkChangesOnlyItsDestinations := by
  intro s
  obtain ⟨-, t, ht, e⟩ | ⟨h7, hs⟩ := execBrk_effect s
  · obtain ⟨ha, hx, hy⟩ : t.regs.a = s.regs.a ∧ t.regs.x = s.regs.x ∧ t.regs.y = s.regs.y := by simp [e.regs_eq]
    obtain ⟨hirq, hnmi⟩ : t.pins.irq = s.pins.irq ∧ t.pins.nmi = s.pins.nmi := by simp [e.pins_eq]
    refine ⟨t, ht, ha, hx, hy, ?flags, e.ir_eq, e.reason_eq, e.resetPending_eq, e.nmiLast_eq, e.nmiPending_eq, hirq,
      hnmi, ?push, ?pc, ?ad, ?status, ?sync, fun _ => e.fault_eq, e.addr_of_write⟩
    case flags => intro f hf; simp [e.flag_eq, hf]
    case push => exact fun hk => e.kept_of_not_push (by omega)
    case pc => intro h1 h6; simp [e.regs_eq, h1, h6]
    case ad =>
      intro hk
      obtain ⟨h3, h4, h5⟩ : s.cyc ≠ 3 ∧ s.cyc ≠ 4 ∧ s.cyc ≠ 5 := by omega
      simp [e.ad_eq, h3, h4, h5]
    case status => intro h3; simp [State.readP, e.regs_eq, h3]
    case sync => intro h6; simp [e.pins_eq, h6]
  · exact ⟨_, hs, rfl, rfl, rfl, fun _ _ => rfl, rfl, rfl, rfl, rfl, rfl, rfl, rfl, fun _ => ⟨rfl, rfl, rfl⟩,
      fun _ _ => rfl, fun _ => rfl, fun _ => rfl, fun _ => rfl, fun h6 => by omega,
      fun hrw hw => nomatch hrw.symm.trans hw⟩

end Sys2Proof.Machine
end

section
/-! The 0x00 sequence, micro-step by micro-step: the whole next state of BRK at each cycle index, the vectors, and the
write cycles. -/

namespace Sys2Proof.Machine

/-! ### One micro-step as a whole next state -/

/-- A micro-step writes the pins, the register file, AD and CYC only. -/
theorem MicroStepEffect.eq_update {s t : State} {k : Nat} (e : MicroStepEffect s k t) :
    t = { s with pins := t.pins, regs := t.regs, ad := t.ad, cyc := t.cyc } := by
  obtain ⟨-, -, -, hir, hreason, hreset, hpending, hlast, hfault⟩ := e
  rw [← hir, ← hreason, ← hreset, ← hpending, ← hlast, ← hfault]

/-- PC as micro-step 1 leaves it (41_brk_sequence.md R91). -/
theorem add_pcAdvance (pc : Addr) (r : EntryReason) :
    pc + pcAdvance r = if r = .softwareBreak then pc + 1#16 else pc := by
  cases r <;> simp [pcAdvance]

/-- The kind of the bus cycle that a push leaves: under Reset the write is suppressed (41_brk_sequence.md R97, R98). -/
def pushKind (r : EntryReason) : BusKind := if r = .reset then .read else .write

/-- The bus cycle that a micro-step leaves, where phases 1 and 2 have set SYNC to 0 and RW to 1. -/
theorem MicroStepEffect.busCycle_eq {s t : State} {k : Nat} (e : MicroStepEffect s k t) (hrw : s.pins.rw = true)
    (hsync : s.pins.sync = false) :
    t.busCycle =
      ⟨if PushCycle k then pushKind s.reason else .read, t.pins.addr, t.pins.data, decide (k = 6)⟩ := by
  simp only [State.busCycle, pushKind, e.pins_eq, hrw, hsync]
  by_cases hpush : PushCycle k <;> by_cases hreset : s.reason = .reset <;> simp [hpush, hreset]

/-- BRK at a cycle index of the dispatch table. -/
theorem exec_brk_of_cyc {s : State} {k : Nat} (hcyc : s.cyc = k) (hk : k ≤ 6) :
    ∃ t, exec .brk s = .next t ∧ t.cyc = k + 1 ∧ MicroStepEffect s k t := by
  cases hu : s.takeEntry s.cyc with
  | none => exact absurd ((s.takeEntry_eq_none_iff _).1 hu) (by omega)
  | some u =>
    obtain ⟨-, -, -, -, -, -, hkept, -⟩ := State.takeEntry_frame hu
    exact ⟨_, execBrk_of_entry hu, congrArg (· + 1) (hkept.trans hcyc),
      hcyc ▸ (State.takeEntry_effect hu).nextCycle⟩

/-- Settles O21: the effect of micro-step 0; micro-step 1, which runs next, reads no DATA. -/
theorem brkCycleZeroAssertsPc : Obligations.BrkCycleZeroAssertsPc := by
  intro s hcyc
  obtain ⟨t, ht, htc, e⟩ := exec_brk_of_cyc hcyc (by decide)
  refine ⟨t, ht, ?state, fun hrw hsync => ?bus, fun v => ?data⟩
  case state => rw [e.eq_update, e.pins_eq, e.regs_eq, e.ad_eq, htc]; simp [PushCycle]
  case bus => rw [e.busCycle_eq hrw hsync, e.pins_eq]; simp [PushCycle]
  case data =>
    have hone : (t.setData v).cyc = 1 := htc
    simp only [exec, execBrk, hone, htc, State.takeEntry, State.entryPushPcHigh, State.push_eq]
    rfl

/-- Settles O22: the effect of micro-step 1. -/
theorem brkCycleOnePushesPcHigh : Obligations.BrkCycleOnePushesPcHigh := by
  intro s hcyc pc sp a
  obtain ⟨t, ht, htc, e⟩ := exec_brk_of_cyc hcyc (by decide)
  refine ⟨t, ht, ?state, fun hrw hsync => ?bus⟩
  case state =>
    rw [e.eq_update, e.pins_eq, e.regs_eq, e.ad_eq, htc]
    simp [PushCycle, add_pcAdvance, stackAddress, highByte, pc, sp, a]
  case bus =>
    rw [e.busCycle_eq hrw hsync, e.pins_eq]
    simp [PushCycle, add_pcAdvance, stackAddress, highByte, pushKind, pc, sp, a]

/-- Settles O23: the effect of micro-step 2. -/
theorem brkCycleTwoPushesPcLow : Obligations.BrkCycleTwoPushesPcLow := by
  intro s hcyc sp a
  obtain ⟨t, ht, htc, e⟩ := exec_brk_of_cyc hcyc (by decide)
  refine ⟨t, ht, ?state, fun hrw hsync => ?bus⟩
  case state =>
    rw [e.eq_update, e.pins_eq, e.regs_eq, e.ad_eq, htc]
    simp [PushCycle, stackAddress, lowByte, sp, a]
  case bus =>
    rw [e.busCycle_eq hrw hsync, e.pins_eq]
    simp [PushCycle, stackAddress, lowByte, pushKind, sp, a]

/-- Settles O24: the effect of micro-step 3; a read of P with I set is a stored form of P. -/
theorem brkCycleThreePushesStatus : Obligations.BrkCycleThreePushesStatus := by
  intro s hcyc sp a image
  obtain ⟨t, ht, htc, e⟩ := exec_brk_of_cyc hcyc (by decide)
  refine ⟨t, ht, ?state, ?status, fun hrw hsync => ?bus⟩
  case state =>
    rw [e.eq_update, e.pins_eq, e.regs_eq, e.ad_eq, htc]
    simp [PushCycle, stackAddress, pushedImage, State.setInterruptDisable_eq, sp, a, image]
  case status =>
    rw [← State.readP_setInterruptDisable]
    simp [State.readP, e.regs_eq]
  case bus =>
    rw [e.busCycle_eq hrw hsync, e.pins_eq]
    simp [PushCycle, stackAddress, pushedImage, pushKind, sp, a, image]

/-- Settles O25: the effect of micro-step 4. -/
theorem brkCycleFourReadsVectorLow : Obligations.BrkCycleFourReadsVectorLow := by
  intro s hcyc
  obtain ⟨t, ht, htc, e⟩ := exec_brk_of_cyc hcyc (by decide)
  refine ⟨t, ht, ?state, fun hrw hsync => ?bus⟩
  case state => rw [e.eq_update, e.pins_eq, e.regs_eq, e.ad_eq, htc]; simp [PushCycle]
  case bus => rw [e.busCycle_eq hrw hsync, e.pins_eq]; simp [PushCycle]

/-- Settles O26: the effect of micro-step 5, and the halves of the captured byte. -/
theorem brkCycleFiveReadsVectorHigh : Obligations.BrkCycleFiveReadsVectorHigh := by
  intro s hcyc
  obtain ⟨t, ht, htc, e⟩ := exec_brk_of_cyc hcyc (by decide)
  have had : t.ad = zext16 s.pins.data := by simp [e.ad_eq]
  refine ⟨t, ht, ?state, ?low, ?high, fun hrw hsync => ?bus⟩
  case state => rw [e.eq_update, e.pins_eq, e.regs_eq, had, htc]; simp [PushCycle, zext16]
  case low => rw [had]; exact lowByte_zext16 s.pins.data
  case high => rw [had]; exact highByte_zext16 s.pins.data
  case bus => rw [e.busCycle_eq hrw hsync, e.pins_eq]; simp [PushCycle]

/-- Settles O27: the effect of micro-step 6, which sets SYNC whatever it was. -/
theorem brkCycleSixLoadsPc : Obligations.BrkCycleSixLoadsPc := by
  intro s hcyc pc
  obtain ⟨t, ht, htc, e⟩ := exec_brk_of_cyc hcyc (by decide)
  refine ⟨t, ht, ?state, fun hrw => ?bus⟩
  case state =>
    rw [e.eq_update, e.pins_eq, e.regs_eq, e.ad_eq, htc]
    simp [PushCycle, joinBytes, lowByte, pc]
  case bus => simp [State.busCycle, e.pins_eq, hrw, PushCycle, joinBytes, lowByte, pc]

/-! ### The vectors and the write cycles -/

/-- Settles O43, by the definition of the vectors. -/
theorem vectorOfEachEntryReason : Obligations.VectorOfEachEntryReason :=
  ⟨rfl, rfl, rfl, rfl, rfl, rfl, rfl⟩

/-- Settles O33: the beginning of the step sets RW, and only a push of an entry that is no reset clears it. -/
theorem writeCyclesArePushesOfNonResetEntries : Obligations.WriteCyclesArePushesOfNonResetEntries := by
  intro s hf
  obtain ⟨t, ht⟩ := step_total hf
  refine ⟨t, ht, ?_⟩
  obtain ⟨k, -, -, -, -, e, hran⟩ | ⟨-, rfl, hran⟩ := step_effect ht
  · simp only [State.RanPush, hran, e.reason_eq, e.pins_eq]
    by_cases hpush : PushCycle k <;> simp [hpush]
  · simp [State.RanPush, hran]

end Sys2Proof.Machine
end

section
/-! The 0x00 sequence as a whole, under any host: an invariant of the states between its micro-steps, which each cycle
of host turn and step carries from one cycle index to the next, and R99's table of the bus cycles. -/

namespace Sys2Proof.Machine

/-! ### What the host's turn leaves -/

/-- The part of a state that the host's turn cannot reach (20_memory.md R49). -/
theorem State.hostTurn_frame (s : State) (turn : List HostAction) :
    s.hostTurn turn =
      { s with pins := { s.pins with
          data := (s.hostTurn turn).pins.data
          irq := (s.hostTurn turn).pins.irq
          nmi := (s.hostTurn turn).pins.nmi } } := by
  obtain ⟨d, irq, nmi, h⟩ := hostTurnReachesOnlyItsThreePins s turn
  rw [h]

@[simp] theorem State.hostTurn_regs (s : State) (turn : List HostAction) : (s.hostTurn turn).regs = s.regs := by
  rw [s.hostTurn_frame turn]

@[simp] theorem State.hostTurn_fault (s : State) (turn : List HostAction) : (s.hostTurn turn).fault = s.fault := by
  rw [s.hostTurn_frame turn]

@[simp] theorem State.hostTurn_sync (s : State) (turn : List HostAction) :
    (s.hostTurn turn).pins.sync = s.pins.sync := by
  rw [s.hostTurn_frame turn]

/-! ### The states between the micro-steps -/

/-- PC as the sequence pushes it (41_brk_sequence.md R88, R91). -/
def State.pushedPc (b : State) : Addr := b.regs.pc + pcAdvance b.reason

/-- The register file at cycle index `k` of the sequence that was dispatched in `b`, before PC is loaded
(41_brk_sequence.md R87). -/
def State.sequenceRegs (b : State) : Nat → Registers
  | 0 => b.regs
  | 1 => b.regs
  | 2 => { b.regs with s := b.regs.s - 1#8, pc := b.pushedPc }
  | 3 => { b.regs with s := b.regs.s - 2#8, pc := b.pushedPc }
  | _ => { b.regs with s := b.regs.s - 3#8, p := b.readP ||| 0x04#8, pc := b.pushedPc }

/-- R99's table: the bus cycle that micro-step `k`, before the last, leaves in the sequence that was dispatched in `b`;
`d` is the byte on DATA when it runs. -/
def State.sequenceBusCycle (b : State) (d : Byte) : Nat → BusCycle
  | 0 => ⟨.read, b.regs.pc, d, false⟩
  | 1 => ⟨pushKind b.reason, stackAddress (b.regs.s - 1#8), highByte b.pushedPc, false⟩
  | 2 => ⟨pushKind b.reason, stackAddress (b.regs.s - 2#8), lowByte b.pushedPc, false⟩
  | 3 => ⟨pushKind b.reason, stackAddress (b.regs.s - 3#8), pushedImage b.reason b.readP, false⟩
  | 4 => ⟨.read, vector b.reason, d, false⟩
  | _ => ⟨.read, vector b.reason + 1#16, d, false⟩

/-- The state `s` stands before micro-step `k` of the sequence that was dispatched in `b`. -/
structure SequencePoint (b : State) (k : Nat) (s : State) : Prop where
  fault : s.fault = none
  sync : s.pins.sync = false
  ir : s.ir = 0x00#8
  cyc : s.cyc = k
  reason : s.reason = b.reason
  resetPending : s.resetPending = b.resetPending
  nmiPending : s.nmiPending = b.nmiPending
  nmiLast : s.nmiLast = b.nmiLast
  regs : s.regs = b.sequenceRegs k
  vectorLow : k = 4 → s.ad = vector b.reason
  vectorHigh : k = 5 → s.ad = vector b.reason + 1#16

/-- Neither the host's turn nor the beginning of the step moves a point of the sequence. -/
theorem SequencePoint.dispatched {b s : State} {k : Nat} (p : SequencePoint b k s) (turn : List HostAction) :
    SequencePoint b k (s.hostTurn turn).beginStep := by
  have hsync : (s.hostTurn turn).pins.sync = false := (s.hostTurn_sync turn).trans p.sync
  rw [State.beginStep_of_not_sync hsync, s.hostTurn_frame turn]
  exact ⟨p.fault, p.sync, p.ir, p.cyc, p.reason, p.resetPending, p.nmiPending, p.nmiLast, p.regs, p.vectorLow,
    p.vectorHigh⟩

/-- The registers from one cycle index to the next. -/
theorem SequencePoint.microStep_regs {b s t : State} {k : Nat} (p : SequencePoint b k s) (e : MicroStepEffect s k t)
    (hk : k ≤ 5) : t.regs = b.sequenceRegs (k + 1) := by
  rw [e.regs_eq, State.setInterruptDisable_eq, State.readP, p.regs, p.reason]
  match k, hk with
  | 0, _ | 4, _ | 5, _ => rfl
  | 1, _ => simp [State.sequenceRegs, State.pushedPc, PushCycle]
  | 2, _ | 3, _ => simp [State.sequenceRegs, State.readP, BitVec.sub_sub]

/-- The bus cycle of each micro-step but the last. -/
theorem SequencePoint.microStep_busCycle {b s t : State} {k : Nat} (p : SequencePoint b k s)
    (e : MicroStepEffect s k t) (hrw : s.pins.rw = true) (hk : k ≤ 5) :
    t.busCycle = b.sequenceBusCycle s.pins.data k := by
  rw [e.busCycle_eq hrw p.sync, e.pins_eq, State.readP, p.regs, p.reason]
  match k, p, hk with
  | 0, _, _ => rfl
  | 1, _, _ => rfl
  | 2, _, _ => simp [State.sequenceRegs, State.sequenceBusCycle, PushCycle, BitVec.sub_sub]
  | 3, _, _ => simp [State.sequenceRegs, State.sequenceBusCycle, State.readP, PushCycle, BitVec.sub_sub]
  | 4, p, _ => simp [State.sequenceBusCycle, PushCycle, p.vectorLow rfl]
  | 5, p, _ => simp [State.sequenceBusCycle, PushCycle, p.vectorHigh rfl]

/-- Every micro-step but the last leads to the next point. -/
theorem SequencePoint.microStep {b s t : State} {k : Nat} (p : SequencePoint b k s) (e : MicroStepEffect s k t)
    (htc : t.cyc = k + 1) (hk : k ≤ 5) : SequencePoint b (k + 1) t where
  fault := e.fault_eq.trans p.fault
  sync := by
    have h6 : k ≠ 6 := by omega
    simp [e.pins_eq, h6, p.sync]
  ir := e.ir_eq.trans p.ir
  cyc := htc
  reason := e.reason_eq.trans p.reason
  resetPending := e.resetPending_eq.trans p.resetPending
  nmiPending := e.nmiPending_eq.trans p.nmiPending
  nmiLast := e.nmiLast_eq.trans p.nmiLast
  regs := p.microStep_regs e hk
  vectorLow h4 := by
    obtain rfl : k = 3 := by omega
    simp [e.ad_eq, p.reason]
  vectorHigh h5 := by
    obtain rfl : k = 4 := by omega
    simp [e.ad_eq, p.vectorLow rfl]

/-! ### The cycles of the sequence -/

/-- A step that dispatches at a point of the sequence runs the micro-step there. -/
theorem SequencePoint.step_effect {b u : State} {k : Nat} (p : SequencePoint b k u.beginStep) (hk : k ≤ 6) :
    ∃ t, step u = .next t ∧ t.cyc = k + 1 ∧ MicroStepEffect u.beginStep k t := by
  have hf : u.fault = none := u.beginStep_fault.symm.trans p.fault
  rw [step_of_decode hf (p.ir ▸ decode_zero)]
  exact exec_brk_of_cyc p.cyc hk

/-- Before the last micro-step, the step leads to the next point and leaves its bus cycle of R99's table; micro-step 5
captures DATA. -/
theorem SequencePoint.step {b u : State} {k : Nat} (p : SequencePoint b k u.beginStep) (hk : k ≤ 5) :
    ∃ t, step u = .next t ∧ SequencePoint b (k + 1) t ∧ t.busCycle = b.sequenceBusCycle u.pins.data k ∧
      (k = 5 → t.ad = zext16 u.pins.data) := by
  obtain ⟨t, ht, htc, e⟩ := p.step_effect (by omega)
  refine ⟨t, ht, p.microStep e htc hk, ?bus, fun h5 => ?captured⟩
  case bus => simpa using p.microStep_busCycle e (by simp) hk
  case captured => simp [e.ad_eq, h5]

/-- Sampling takes the reset request and remembers the NMI level (60_exceptions.md R101). -/
theorem State.boundarySample_latches (s : State) :
    s.boundarySample.resetPending = false ∧ s.boundarySample.nmiLast = s.pins.nmi := by
  obtain ⟨-, h⟩ | ⟨hr, -, h⟩ | ⟨hr, -, -, -, h⟩ | ⟨hr, -, -, h⟩ := s.boundarySample_cases <;> simp [*]

/-- A fetch step that begins a 0x00 sequence dispatches at its first point. -/
theorem SequencePoint.of_fetch {u : State} (hf : u.fault = none) (hsync : u.pins.sync = true)
    (hop : u.EntryRequested ∨ u.pins.data = 0x00#8) : SequencePoint u.beginStep 0 u.beginStep where
  fault := u.beginStep_fault.trans hf
  sync := by simp
  ir := by
    by_cases hreq : u.EntryRequested
    · rw [State.beginStep_of_sync hsync]
      exact State.boundarySample_ir_of_entryRequested hreq
    · rw [State.beginStep_of_not_entryRequested hsync hreq]
      exact hop.resolve_left hreq
  cyc := by rw [State.beginStep_cyc, if_pos hsync]
  reason := rfl
  resetPending := rfl
  nmiPending := rfl
  nmiLast := rfl
  regs := rfl
  vectorLow h := nomatch h
  vectorHigh h := nomatch h

/-- The first cycle of a sequence. -/
theorem State.cycle_fetch {s : State} {turn : List HostAction} (hf : s.fault = none) (hsync : s.pins.sync = true)
    (hop : (s.hostTurn turn).EntryRequested ∨ (s.hostTurn turn).pins.data = 0x00#8) :
    ∃ t, s.cycle turn = .next t ∧ SequencePoint (s.hostTurn turn).beginStep 1 t ∧
      t.busCycle = (s.hostTurn turn).beginStep.sequenceBusCycle (s.hostTurn turn).pins.data 0 := by
  have p := SequencePoint.of_fetch (u := s.hostTurn turn) ((s.hostTurn_fault turn).trans hf)
    ((s.hostTurn_sync turn).trans hsync) hop
  obtain ⟨t, ht, hp, hb, -⟩ := p.step (by decide)
  exact ⟨t, ht, hp, hb⟩

/-- The cycles between the first and the last. -/
theorem SequencePoint.cycle {b s : State} {k : Nat} (p : SequencePoint b k s) (hk : k ≤ 5) (turn : List HostAction) :
    ∃ t, s.cycle turn = .next t ∧ SequencePoint b (k + 1) t ∧
      t.busCycle = b.sequenceBusCycle (s.hostTurn turn).pins.data k ∧
      (k = 5 → t.ad = zext16 (s.hostTurn turn).pins.data) :=
  (p.dispatched turn).step hk

/-- The state that the last cycle leaves: PC loaded from DATA and the captured byte, and the fetch re-armed
(41_brk_sequence.md R96). -/
def State.sequenceEnd (s : State) (turn : List HostAction) : State :=
  let pc := joinBytes (s.hostTurn turn).pins.data (lowByte s.ad)
  { s with
    pins := { (s.hostTurn turn).pins with addr := pc, rw := true, sync := true }
    regs := { s.regs with pc := pc }
    cyc := 7 }

theorem SequencePoint.cycle_last {b s : State} (p : SequencePoint b 6 s) (turn : List HostAction) :
    s.cycle turn = .next (s.sequenceEnd turn) := by
  obtain ⟨t, ht, htc, e⟩ := (p.dispatched turn).step_effect (by decide)
  have hsync : (s.hostTurn turn).pins.sync = false := (s.hostTurn_sync turn).trans p.sync
  rw [State.cycle, ht, e.eq_update, e.pins_eq, e.regs_eq, e.ad_eq, htc, State.beginStep_of_not_sync hsync,
    s.hostTurn_frame turn]
  simp [State.sequenceEnd, PushCycle]

/-- The end of a sequence, in terms of the state it was dispatched in. -/
theorem SequencePoint.sequenceEnd_regs {b s : State} (p : SequencePoint b 6 s) (turn : List HostAction) :
    (s.sequenceEnd turn).regs =
      { b.regs with
        s := b.regs.s - 3#8
        p := b.readP ||| 0x04#8
        pc := joinBytes (s.hostTurn turn).pins.data (lowByte s.ad) } := by
  rw [State.sequenceEnd, p.regs]
  rfl

/-- Where a sequence is dispatched, the register file is the one before the host's turn. -/
theorem State.dispatched_regs (s : State) (turn : List HostAction) : (s.hostTurn turn).beginStep.regs = s.regs := by
  rw [State.beginStep_regs, s.hostTurn_regs]

/-! ### The seven cycles -/

/-- Settles O44: the first cycle, the five after it and the last, each by its row of R99's table. -/
theorem entrySequenceLeavesItsSevenBusCycles : Obligations.EntrySequenceLeavesItsSevenBusCycles := by
  intro s h1 h2 h3 h4 h5 h6 h7 hf hsync hop
  obtain ⟨s1, c1, p1, b1⟩ := State.cycle_fetch hf hsync hop
  obtain ⟨s2, c2, p2, b2, -⟩ := p1.cycle (by decide) h2
  obtain ⟨s3, c3, p3, b3, -⟩ := p2.cycle (by decide) h3
  obtain ⟨s4, c4, p4, b4, -⟩ := p3.cycle (by decide) h4
  obtain ⟨s5, c5, p5, b5, -⟩ := p4.cycle (by decide) h5
  obtain ⟨s6, c6, p6, b6, captured⟩ := p5.cycle (by decide) h6
  have b7 : (s6.sequenceEnd h7).busCycle =
      ⟨.read, joinBytes (s6.hostTurn h7).pins.data (s5.hostTurn h6).pins.data, (s6.hostTurn h7).pins.data, true⟩ := by
    simp [State.busCycle, State.sequenceEnd, captured]
  simp only [State.sequenceBusCycle, State.pushedPc, State.readP, s.dispatched_regs, ← p1.reason, add_pcAdvance]
    at b1 b2 b3 b4 b5 b6
  exact ⟨s1, s2, s3, s4, s5, s6, _, c1, c2, c3, c4, c5, c6, p6.cycle_last h7, b1, b2, b3, b4, b5, b6, b7⟩

/-- A run by its first cycle. -/
theorem State.runTurns_cons {s t : State} {turn : List HostAction} (h : s.cycle turn = .next t)
    (rest : List (List HostAction)) : s.runTurns (turn :: rest) = t.runTurns rest := by
  simp [State.runTurns, h]

/-- Settles O45: the end of the sequence, reached through its seven points. -/
theorem entrySequenceNetEffect : Obligations.EntrySequenceNetEffect := by
  intro s h1 h2 h3 h4 h5 h6 h7 hf hsync hop
  obtain ⟨s1, c1, p1, -⟩ := State.cycle_fetch hf hsync hop
  obtain ⟨s2, c2, p2, -⟩ := p1.cycle (by decide) h2
  obtain ⟨s3, c3, p3, -⟩ := p2.cycle (by decide) h3
  obtain ⟨s4, c4, p4, -⟩ := p3.cycle (by decide) h4
  obtain ⟨s5, c5, p5, -⟩ := p4.cycle (by decide) h5
  obtain ⟨s6, c6, p6, -, captured⟩ := p5.cycle (by decide) h6
  have had : s6.ad = zext16 (s5.hostTurn h6).pins.data := captured rfl
  have hpc : lowByte s6.ad = (s5.hostTurn h6).pins.data := by rw [had, lowByte_zext16]
  have hlatches : (s.hostTurn h1).beginStep.resetPending = false ∧
      (s.hostTurn h1).beginStep.nmiLast = (s.hostTurn h1).pins.nmi := by
    rw [State.beginStep_of_sync ((s.hostTurn_sync h1).trans hsync)]
    exact (s.hostTurn h1).boundarySample_latches
  have run5 : ∀ rest, s.runTurns (h1 :: h2 :: h3 :: h4 :: h5 :: rest) = s5.runTurns rest := fun rest => by
    rw [State.runTurns_cons c1, State.runTurns_cons c2, State.runTurns_cons c3, State.runTurns_cons c4,
      State.runTurns_cons c5]
  refine ⟨s1, s5, s6, s6.sequenceEnd h7, State.runTurns_cons c1 [], run5 [], ?run6, ?run7, ?regs, ?addr, rfl, rfl, p6.ir,
    rfl, had, p6.fault, p6.reason.trans p1.reason.symm, p6.resetPending.trans hlatches.1,
    p6.nmiLast.trans hlatches.2, p6.nmiPending.trans p1.nmiPending.symm⟩
  case run6 => rw [run5, State.runTurns_cons c6]; rfl
  case run7 => rw [run5, State.runTurns_cons c6, State.runTurns_cons (p6.cycle_last h7)]; rfl
  case regs => rw [p6.sequenceEnd_regs, hpc, State.readP, s.dispatched_regs]; rfl
  case addr => exact congrArg (joinBytes _) hpc

end Sys2Proof.Machine
end

section
/-! BRK under the reference host: a round is a cycle of the core under the turn that H_mem takes, so the seven rounds are
the seven cycles of the sequence, with three write cycles committed to memory. -/

namespace Sys2Proof.Machine

/-! ### A round as a cycle of the core -/

/-- H_mem's turn before a step: it sets the two lines and answers a read with the byte at ADDR (R62). -/
def RefHost.turn (h : RefHost) (l : Lines) : List HostAction :=
  [.setIRQ l.irq, .setNMI l.nmi] ++
    if h.core.pins.rw then [.setData (h.mem.read h.core.pins.addr).toNat] else []

/-- The memory after H_mem's service of a bus cycle (R40, R62). -/
def Memory.commit (m : Memory) (b : BusCycle) : Memory :=
  match b.kind with
  | .read => m
  | .write => m.write b.address b.wdata

theorem RefHost.service_setLines (h : RefHost) (l : Lines) :
    (h.setLines l).service = { core := h.core.hostTurn (h.turn l), mem := h.mem.commit h.core.busCycle } := by
  cases hrw : h.core.pins.rw
  · rw [RefHost.service_setLines_of_write hrw]
    simp [RefHost.turn, Memory.commit, State.busCycle, hrw, State.hostTurn, State.act]
  · rw [RefHost.service_setLines_of_read hrw]
    simp [RefHost.turn, Memory.commit, State.busCycle, hrw, State.hostTurn, State.act]

/-- A run by its first round. -/
theorem RefHost.run_cons {h : RefHost} {l : Lines} {t : State} (hc : h.core.cycle (h.turn l) = .next t)
    (rest : List Lines) : h.run (l :: rest) = RefHost.run ⟨t, h.mem.commit h.core.busCycle⟩ rest := by
  have hround : h.round l = .next ⟨t, h.mem.commit h.core.busCycle⟩ := by
    rw [RefHost.round_of_step (c := t)] <;> rw [RefHost.service_setLines]
    exact hc
  simp [RefHost.run, hround]

/-- On a read cycle the core finds the byte at ADDR on DATA (R39). -/
theorem RefHost.hostTurn_data_of_read {h : RefHost} (hrw : h.core.busCycle.kind = .read) (l : Lines) :
    (h.core.hostTurn (h.turn l)).pins.data = h.mem.read h.core.busCycle.address := by
  have hrw' := h.core.busCycle_kind_eq_read_iff.1 hrw
  simp [RefHost.turn, hrw', State.hostTurn, State.act, State.setData, State.busCycle]

/-! ### The memory after the pushes -/

theorem Memory.commit_wf {m : Memory} (hm : m.wf = true) (b : BusCycle) : (m.commit b).wf = true := by
  cases hb : b.kind <;> simp [Memory.commit, hb, hm, Memory.wf_write]

/-- A bus cycle that is no write changes no byte, and a write changes the byte at its address only. -/
theorem Memory.read_commit {m : Memory} (hm : m.wf = true) (b : BusCycle) (a : Addr) :
    (m.commit b).read a = if b.kind = .write ∧ a = b.address then b.wdata else m.read a := by
  cases hb : b.kind <;> simp [Memory.commit, hb, Memory.read_write hm]

/-- The memory after the three pushes of the sequence that was dispatched in `b`; no byte delivered on DATA stands in
their bus cycles. -/
def Memory.pushes (m : Memory) (b : State) : Memory :=
  ((m.commit (b.sequenceBusCycle 0x00#8 1)).commit (b.sequenceBusCycle 0x00#8 2)).commit
    (b.sequenceBusCycle 0x00#8 3)

theorem Memory.pushes_wf {m : Memory} (hm : m.wf = true) (b : State) : (m.pushes b).wf = true :=
  Memory.commit_wf (Memory.commit_wf (Memory.commit_wf hm _) _) _

/-- The pushes read back, the last one first. -/
theorem Memory.read_pushes {m : Memory} (hm : m.wf = true) (b : State) (a : Addr) :
    (m.pushes b).read a =
      if pushKind b.reason = .write ∧ a = stackAddress (b.regs.s - 3#8) then pushedImage b.reason b.readP
      else if pushKind b.reason = .write ∧ a = stackAddress (b.regs.s - 2#8) then lowByte b.pushedPc
      else if pushKind b.reason = .write ∧ a = stackAddress (b.regs.s - 1#8) then highByte b.pushedPc
      else m.read a := by
  have hm1 := Memory.commit_wf hm (b.sequenceBusCycle 0x00#8 1)
  have hm2 := Memory.commit_wf hm1 (b.sequenceBusCycle 0x00#8 2)
  rw [Memory.pushes, Memory.read_commit hm2, Memory.read_commit hm1, Memory.read_commit hm]
  rfl

theorem stackAddress_sub_ne {s i j : Byte} (h : i ≠ j) : stackAddress (s - i) ≠ stackAddress (s - j) := fun hij => by
  have hsub : s - i = s - j := stackAddress_injective hij
  exact h (by bv_omega)

/-- The pushes of an entry that is no reset, the first one first: their addresses differ. -/
theorem Memory.read_pushes_of_not_reset {m : Memory} (hm : m.wf = true) {b : State} (hb : b.reason ≠ .reset)
    (a : Addr) :
    (m.pushes b).read a =
      if a = stackAddress (b.regs.s - 1#8) then highByte b.pushedPc
      else if a = stackAddress (b.regs.s - 2#8) then lowByte b.pushedPc
      else if a = stackAddress (b.regs.s - 3#8) then pushedImage b.reason b.readP
      else m.read a := by
  have h12 : stackAddress (b.regs.s - 1#8) ≠ stackAddress (b.regs.s - 2#8) := stackAddress_sub_ne (by decide)
  have h13 : stackAddress (b.regs.s - 1#8) ≠ stackAddress (b.regs.s - 3#8) := stackAddress_sub_ne (by decide)
  have h23 : stackAddress (b.regs.s - 2#8) ≠ stackAddress (b.regs.s - 3#8) := stackAddress_sub_ne (by decide)
  rw [Memory.read_pushes hm, pushKind, if_neg hb]
  by_cases h1 : a = stackAddress (b.regs.s - 1#8)
  · simp [h1, h12, h13]
  · by_cases h2 : a = stackAddress (b.regs.s - 2#8) <;> simp [h1, h2, h12.symm, h23]

/-- The pushes change no byte outside the stack page, whatever the entry. -/
theorem Memory.read_pushes_of_highByte {m : Memory} (hm : m.wf = true) (b : State) {a : Addr}
    (ha : highByte a ≠ 0x01#8) : (m.pushes b).read a = m.read a := by
  have hne : ∀ s, a ≠ stackAddress s := fun s h => ha (h ▸ highByte_stackAddress s)
  simp [Memory.read_pushes hm, hne]

/-! ### Seven rounds -/

/-- What the seven rounds of the sequence that was dispatched in `b` leave in the core, when the memory after the pushes
is `m` (41_brk_sequence.md R87). -/
structure SequenceEnd (b : State) (m : Memory) (t : State) : Prop where
  regs : t.regs =
    { b.regs with
      s := b.regs.s - 3#8
      p := b.readP ||| 0x04#8
      pc := joinBytes (m.read (vector b.reason + 1#16)) (m.read (vector b.reason)) }
  addr : t.pins.addr = t.regs.pc
  sync : t.pins.sync = true
  rw : t.pins.rw = true
  fault : t.fault = none
  cyc : t.cyc = 7
  reason : t.reason = b.reason
  resetPending : t.resetPending = b.resetPending
  nmiPending : t.nmiPending = b.nmiPending
  nmiLast : t.nmiLast = b.nmiLast

/-- The last round, from the state that micro-step 5 left on the bus. -/
theorem SequencePoint.sequenceEnd {b s : State} {m : Memory} (p : SequencePoint b 6 s) {turn : List HostAction}
    (hhi : (s.hostTurn turn).pins.data = m.read (vector b.reason + 1#16))
    (hlo : s.ad = zext16 (m.read (vector b.reason))) : SequenceEnd b m (s.sequenceEnd turn) where
  regs := by rw [p.sequenceEnd_regs, hhi, hlo, lowByte_zext16]
  addr := rfl
  sync := rfl
  rw := rfl
  fault := p.fault
  cyc := rfl
  reason := p.reason
  resetPending := p.resetPending
  nmiPending := p.nmiPending
  nmiLast := p.nmiLast

/-- Seven rounds from a fetch state whose step begins a 0x00 sequence, in a longer schedule. -/
theorem RefHost.run_sequence {h : RefHost} (l1 l2 l3 l4 l5 l6 l7 : Lines) (rest : List Lines)
    (hf : h.core.fault = none) (hsync : h.core.pins.sync = true)
    (hop : (h.core.hostTurn (h.turn l1)).EntryRequested ∨ (h.core.hostTurn (h.turn l1)).pins.data = 0x00#8) :
    let b := (h.core.hostTurn (h.turn l1)).beginStep
    let m := (h.mem.commit h.core.busCycle).pushes b
    ∃ t, SequenceEnd b m t ∧
      h.run (l1 :: l2 :: l3 :: l4 :: l5 :: l6 :: l7 :: rest) = RefHost.run ⟨t, m⟩ rest := by
  intro b m
  let m0 := h.mem.commit h.core.busCycle
  obtain ⟨s1, c1, p1, b1⟩ := State.cycle_fetch hf hsync hop
  obtain ⟨s2, c2, p2, b2, -⟩ := p1.cycle (by decide) (RefHost.turn ⟨s1, m0⟩ l2)
  obtain ⟨s3, c3, p3, b3, -⟩ := p2.cycle (by decide) (RefHost.turn ⟨s2, m0⟩ l3)
  obtain ⟨s4, c4, p4, b4, -⟩ := p3.cycle (by decide) (RefHost.turn ⟨s3, m0.commit s2.busCycle⟩ l4)
  obtain ⟨s5, c5, p5, b5, -⟩ :=
    p4.cycle (by decide) (RefHost.turn ⟨s4, (m0.commit s2.busCycle).commit s3.busCycle⟩ l5)
  obtain ⟨s6, c6, p6, b6, captured⟩ := p5.cycle (by decide) (RefHost.turn ⟨s5, m⟩ l6)
  have c7 := p6.cycle_last (RefHost.turn ⟨s6, m⟩ l7)
  have r1 : m0.commit s1.busCycle = m0 := by rw [b1]; rfl
  have w4 : ((m0.commit s2.busCycle).commit s3.busCycle).commit s4.busCycle = m := by rw [b2, b3, b4]; rfl
  have r5 : m.commit s5.busCycle = m := by rw [b5]; rfl
  have r6 : m.commit s6.busCycle = m := by rw [b6]; rfl
  have hlo : s6.ad = zext16 (m.read (vector b.reason)) := by
    rw [captured rfl, RefHost.hostTurn_data_of_read (h := ⟨s5, m⟩)] <;> rw [b5] <;> rfl
  have hhi : (s6.hostTurn (RefHost.turn ⟨s6, m⟩ l7)).pins.data = m.read (vector b.reason + 1#16) := by
    rw [RefHost.hostTurn_data_of_read (h := ⟨s6, m⟩)] <;> rw [b6] <;> rfl
  refine ⟨_, p6.sequenceEnd hhi hlo, ?_⟩
  calc h.run (l1 :: l2 :: l3 :: l4 :: l5 :: l6 :: l7 :: rest)
    _ = RefHost.run ⟨s1, m0⟩ (l2 :: l3 :: l4 :: l5 :: l6 :: l7 :: rest) := RefHost.run_cons c1 _
    _ = RefHost.run ⟨s2, m0⟩ (l3 :: l4 :: l5 :: l6 :: l7 :: rest) := by rw [RefHost.run_cons (h := ⟨s1, m0⟩) c2, r1]
    _ = RefHost.run ⟨s3, m0.commit s2.busCycle⟩ (l4 :: l5 :: l6 :: l7 :: rest) :=
      RefHost.run_cons (h := ⟨s2, m0⟩) c3 _
    _ = RefHost.run ⟨s4, (m0.commit s2.busCycle).commit s3.busCycle⟩ (l5 :: l6 :: l7 :: rest) :=
      RefHost.run_cons (h := ⟨s3, m0.commit s2.busCycle⟩) c4 _
    _ = RefHost.run ⟨s5, m⟩ (l6 :: l7 :: rest) := by
      rw [RefHost.run_cons (h := ⟨s4, (m0.commit s2.busCycle).commit s3.busCycle⟩) c5, w4]
    _ = RefHost.run ⟨s6, m⟩ (l7 :: rest) := by rw [RefHost.run_cons (h := ⟨s5, m⟩) c6, r5]
    _ = _ := by rw [RefHost.run_cons (h := ⟨s6, m⟩) c7, r6]

/-! ### BRK -/

/-- Settles O56: the seven rounds of a sequence that sampling dispatched as a SoftwareBreak. -/
theorem breakUnderTheReferenceHost : Obligations.BreakUnderTheReferenceHost := by
  intro h l1 l2 l3 l4 l5 l6 l7 hwf hf hsync hrw hop hreq g pr s
  have hkind : h.core.busCycle.kind = .read := h.core.busCycle_kind_eq_read_iff.2 hrw
  have hmem : h.mem.commit h.core.busCycle = h.mem := by rw [Memory.commit, hkind]
  have hdata : (h.core.hostTurn (h.turn l1)).pins.data = 0x00#8 := (RefHost.hostTurn_data_of_read hkind l1).trans hop
  have hturn : h.turn l1 = [.setIRQ l1.irq, .setNMI l1.nmi, .setData (h.mem.read h.core.pins.addr).toNat] := by
    simp [RefHost.turn, hrw]
  have hnone : ¬ (h.core.hostTurn (h.turn l1)).EntryRequested := by rw [hturn]; exact hreq
  obtain ⟨t, ht, hrun⟩ := RefHost.run_sequence l1 l2 l3 l4 l5 l6 l7 [] hf hsync (.inr hdata)
  have hregs := h.core.dispatched_regs (h.turn l1)
  have hreason : (h.core.hostTurn (h.turn l1)).beginStep.reason = .softwareBreak := by
    rw [State.beginStep_of_not_entryRequested ((h.core.hostTurn_sync _).trans hsync) hnone]
  generalize (h.core.hostTurn (h.turn l1)).beginStep = b at *
  rw [hmem] at ht hrun
  have hg : g = ⟨t, h.mem.pushes b⟩ := hrun
  rw [hg]
  refine ⟨?regs, ht.addr, ht.sync, ht.rw, ht.fault, fun a => ?mem⟩
  case regs =>
    have hlo := Memory.read_pushes_of_highByte hwf b (a := vector .softwareBreak) (by decide)
    have hhi := Memory.read_pushes_of_highByte hwf b (a := vector .softwareBreak + 1#16) (by decide)
    change t.regs = _
    rw [ht.regs, hreason, hlo, hhi, State.readP, hregs]
    rfl
  case mem =>
    have hpr : b.pushedPc = pr := by rw [State.pushedPc, hreason, hregs, pcAdvance]
    have himage : pushedImage b.reason b.readP = h.core.readP ||| 0x30#8 := by
      rw [pushedImage, hreason, State.readP, hregs, if_pos rfl, BitVec.or_assoc]
      rfl
    have hread := Memory.read_pushes_of_not_reset hwf (b := b) (by simp [hreason]) a
    rw [hpr, himage, hregs] at hread
    exact hread

end Sys2Proof.Machine
end

section
/-! What a step samples, and what holds of every state of a run under a host: the latches a fetch step writes, the NMI line
held at 1, and the safety facts that the form of a reachable state gives. -/

namespace Sys2Proof.Machine

/-! ### What a step samples -/

/-- Only the beginning of a step writes IR, REASON and the latches (40_step_engine.md R75, R82). -/
theorem step_sampled_eq_beginStep {s t : State} (h : step s = .next t) :
    t.ir = s.beginStep.ir ∧ t.reason = s.beginStep.reason ∧ t.resetPending = s.beginStep.resetPending ∧
      t.nmiLast = s.beginStep.nmiLast ∧ t.nmiPending = s.beginStep.nmiPending := by
  obtain ⟨k, -, -, -, -, e, -⟩ | ⟨-, rfl, -⟩ := step_effect h
  · exact ⟨e.ir_eq, e.reason_eq, e.resetPending_eq, e.nmiLast_eq, e.nmiPending_eq⟩
  · exact ⟨rfl, rfl, rfl, rfl, rfl⟩

/-- A step that is no fetch step samples nothing. -/
theorem step_sampled_of_not_sync {s t : State} (hsync : s.pins.sync = false) (h : step s = .next t) :
    t.ir = s.ir ∧ t.reason = s.reason ∧ t.resetPending = s.resetPending ∧ t.nmiLast = s.nmiLast ∧
      t.nmiPending = s.nmiPending := by
  have hkept := step_sampled_eq_beginStep h
  rwa [State.beginStep_of_not_sync hsync] at hkept

/-- A fetch step leaves what `boundary_sample()` left (60_exceptions.md R101). -/
theorem step_sampled_of_sync {s t : State} (hsync : s.pins.sync = true) (h : step s = .next t) :
    t.ir = s.boundarySample.ir ∧ t.reason = s.boundarySample.reason ∧
      t.resetPending = s.boundarySample.resetPending ∧ t.nmiLast = s.boundarySample.nmiLast ∧
      t.nmiPending = s.boundarySample.nmiPending := by
  have hkept := step_sampled_eq_beginStep h
  rwa [State.beginStep_of_sync hsync] at hkept

/-- A fetch step runs the micro-step at cycle index 0 or faults, and neither moves PC (40_step_engine.md R75). -/
theorem step_pc_of_sync {s t : State} (hsync : s.pins.sync = true) (h : step s = .next t) : t.regs.pc = s.regs.pc := by
  obtain ⟨k, -, -, hk, -, e, -⟩ | ⟨-, rfl, -⟩ := step_effect h
  · have hk0 : k = 0 := by rw [← hk, State.beginStep_cyc, if_pos hsync]
    simp [e.regs_eq, hk0]
  · simp

/-- Settles O15: a fetch step leaves the outcome of sampling, case by case, and no other step samples. -/
theorem fetchStepSamplesInPriorityOrder : Obligations.FetchStepSamplesInPriorityOrder := by
  intro s hf
  obtain ⟨t, ht⟩ := step_total hf
  refine ⟨t, ht, fun hsync => step_sampled_of_not_sync hsync ht, fun hsync => ?_⟩
  obtain ⟨hir, hreason, hreset, hlast, hpending⟩ := step_sampled_of_sync hsync ht
  obtain ⟨hnoReset, hline⟩ := s.boundarySample_latches
  refine ⟨hlast.trans hline, hreset.trans hnoReset, step_pc_of_sync hsync ht, ?_⟩
  rw [hir, hreason, hpending]
  obtain ⟨hr, hs⟩ | ⟨hr, hedge, hs⟩ | ⟨hr, hedge, hirq, hmask, hs⟩ | ⟨hr, hedge, hirq, hs⟩ := s.boundarySample_cases
  · simp [hs, hr]
  · simp [hs, hr, hedge]
  · simp [hs, hr, hedge, hirq, hmask]
  · have hnone : ¬ (s.pins.irq = true ∧ s.flag .i = false) := fun ⟨h1, h0⟩ => by simp [h1, h0] at hirq
    simp [hs, hr, hedge, hnone]

/-! ### Runs under a host -/

/-- What every cycle under an allowed turn keeps holds at the end of every run of such turns. -/
theorem State.runTurns_induction {inv : State → Prop} {allowed : List HostAction → Prop}
    (hcycle : ∀ {s t : State} {turn : List HostAction}, inv s → allowed turn → s.cycle turn = .next t → inv t)
    {s t : State} {turns : List (List HostAction)} (hs : inv s) (hallowed : ∀ turn ∈ turns, allowed turn)
    (h : s.runTurns turns = .next t) : inv t := by
  induction turns generalizing s with
  | nil => cases h; exact hs
  | cons turn rest ih =>
    obtain ⟨hturn, hrest⟩ := List.forall_mem_cons.1 hallowed
    cases hc : s.cycle turn with
    | next u => exact ih (hcycle hs hturn hc) hrest (State.runTurns_cons hc rest ▸ h)
    | fault f => simp [State.runTurns, hc] at h
    | refused r => simp [State.runTurns, hc] at h

/-! ### The NMI line held at 1 -/

/-- The line is at 1, the last fetch step saw it at 1, and no NMI is pending (60_exceptions.md R102). -/
structure State.NmiHeld (s : State) : Prop where
  line : s.pins.nmi = true
  last : s.nmiLast = true
  notPending : s.nmiPending = false

/-- A turn that never deasserts the line leaves it held. -/
theorem State.NmiHeld.hostTurn {s : State} (hs : s.NmiHeld) {turn : List HostAction}
    (hturn : HostAction.setNMI false ∉ turn) : (s.hostTurn turn).NmiHeld := by
  induction turn generalizing s with
  | nil => exact hs
  | cons a rest ih =>
    have ha : HostAction.setNMI false ≠ a := fun h => hturn (List.mem_cons.2 (.inl h))
    have hrest : HostAction.setNMI false ∉ rest := fun h => hturn (List.mem_cons_of_mem a h)
    refine ih ?_ hrest
    match a with
    | .setData _ | .setIRQ _ => exact ⟨hs.line, hs.last, hs.notPending⟩
    | .setNMI true => exact ⟨rfl, hs.last, hs.notPending⟩
    | .setNMI false => exact absurd rfl ha

/-- Sampling sees no edge on a held line, so it takes no NMI. -/
theorem State.NmiHeld.boundarySample {s : State} (hs : s.NmiHeld) :
    s.boundarySample.nmiPending = false ∧ s.boundarySample.reason ≠ .nmi := by
  have hnoEdge : (s.nmiPending || (s.pins.nmi && !s.nmiLast)) = false := by simp [hs.last, hs.notPending]
  obtain ⟨-, h⟩ | ⟨-, hedge, -⟩ | ⟨-, -, -, -, h⟩ | ⟨-, -, -, h⟩ := s.boundarySample_cases
  · simp [h, hnoEdge]
  · exact absurd hedge (Bool.eq_false_iff.1 hnoEdge)
  · simp [h]
  · simp [h]

/-- No step drives the line. -/
theorem step_nmi {s t : State} (h : step s = .next t) : t.pins.nmi = s.pins.nmi := by
  obtain ⟨k, -, -, -, -, e, -⟩ | ⟨-, rfl, -⟩ := step_effect h
  · simp [e.pins_eq]
  · simp

theorem State.NmiHeld.step {s t : State} (hs : s.NmiHeld) (h : step s = .next t) : t.NmiHeld := by
  have hline : t.pins.nmi = true := (step_nmi h).trans hs.line
  cases hsync : s.pins.sync with
  | false =>
    obtain ⟨-, -, -, hlast, hpending⟩ := step_sampled_of_not_sync hsync h
    exact ⟨hline, hlast.trans hs.last, hpending.trans hs.notPending⟩
  | true =>
    obtain ⟨-, -, -, hlast, hpending⟩ := step_sampled_of_sync hsync h
    obtain ⟨-, hsampled⟩ := s.boundarySample_latches
    obtain ⟨hnone, -⟩ := hs.boundarySample
    exact ⟨hline, (hlast.trans hsampled).trans hs.line, hpending.trans hnone⟩

/-- Settles O18: every cycle keeps the line held, and a fetch step on a held line takes no NMI. -/
theorem heldNmiLineIsNotTakenAgain : Obligations.HeldNmiLineIsNotTakenAgain := by
  intro s t u turns turn hline hlast hpending hturns hturn hrun hcycle
  have ht : t.NmiHeld := State.runTurns_induction (fun hs hallowed h => (hs.hostTurn hallowed).step h)
    ⟨hline, hlast, hpending⟩ hturns hrun
  have hheld := ht.hostTurn hturn
  have hu := hheld.step hcycle
  refine ⟨hu.last, hu.notPending, fun hsync => ?_, fun hsync => ?_⟩
  · obtain ⟨-, hreason, -⟩ := step_sampled_of_sync ((t.hostTurn_sync turn).trans hsync) hcycle
    obtain ⟨-, hnoNmi⟩ := hheld.boundarySample
    rwa [hreason]
  · obtain ⟨-, hreason, -⟩ := step_sampled_of_not_sync ((t.hostTurn_sync turn).trans hsync) hcycle
    rw [hreason, t.hostTurn_frame turn]

/-! ### The states reachable from power-on -/

/-- Every state reached from power-on, under any host, has the form of a reachable state. -/
theorem reachableForm_of_runTurns {t : State} {turns : List (List HostAction)}
    (h : State.reset.runTurns turns = .next t) : t.ReachableForm :=
  State.runTurns_induction (allowed := fun _ => True)
    (fun hs _ h => stepKeepsTheReachableForm _ _ (hostTurnKeepsTheReachableForm _ _ hs) h)
    resetHasTheReachableForm (fun _ _ => trivial) h

/-- Settles O51, from the entry state of the reachable form. -/
theorem irqEntryIsUnreachableFromPowerOn : Obligations.IrqEntryIsUnreachableFromPowerOn := fun _ _ h =>
  let ⟨_, _, _, _, ⟨hnotIrq, _⟩, _⟩ := reachableForm_of_runTurns h
  hnotIrq

/-- Settles O52, from the phase and the index registers of the reachable form. -/
theorem reachableFaultsAreAtCycleZero : Obligations.ReachableFaultsAreAtCycleZero := by
  intro turns t h
  obtain ⟨-, hindex, hphase, -⟩ := reachableForm_of_runTurns h
  refine ⟨?_, hindex⟩
  obtain ⟨hnone, -⟩ | ⟨hnone, -⟩ | ⟨hfault, hir, -⟩ := hphase
  · exact .inl hnone
  · exact .inl hnone
  · exact .inr ⟨hfault, hir⟩

end Sys2Proof.Machine
end

section
/-! Two facts about a sequence under any host: how soon the next fetch state comes, and the state that the reset sequence
leaves. -/

namespace Sys2Proof.Machine

/-! ### Runs of host turns -/

/-- A run by a first part of its turns. -/
theorem State.runTurns_append {s t : State} {turns : List (List HostAction)} (h : s.runTurns turns = .next t)
    (rest : List (List HostAction)) : s.runTurns (turns ++ rest) = t.runTurns rest := by
  induction turns generalizing s with
  | nil => cases h; rfl
  | cons turn more ih =>
    cases hc : s.cycle turn with
    | next u => rw [List.cons_append, State.runTurns_cons hc, ih (State.runTurns_cons hc more ▸ h)]
    | fault f => simp [State.runTurns, hc] at h
    | refused r => simp [State.runTurns, hc] at h

/-- The host reaches none of the fields that the phase is read from (10_state.md R31, R32). -/
theorem State.hostTurn_phase (s : State) (turn : List HostAction) : (s.hostTurn turn).phase = s.phase := by
  rw [s.hostTurn_frame turn]
  rfl

/-! ### The next fetch state -/

/-- The final micro-step leaves a fetch state that asserts PC (41_brk_sequence.md R96). -/
theorem State.cycle_of_final {s : State} (h : s.phase = .executing 0x00#8 6) (turn : List HostAction) :
    ∃ t, s.cycle turn = .next t ∧ t.pins.sync = true ∧ t.fault = none ∧ t.cyc = 7 ∧ t.pins.addr = t.regs.pc := by
  rw [← s.hostTurn_phase turn, State.phase_eq_executing_iff] at h
  obtain ⟨hf, hsync, hir, hcyc⟩ := h
  have hdecode : decode (s.hostTurn turn).beginStep.ir = .instr .brk := by
    rw [State.beginStep_ir_of_not_sync hsync, hir, decode_zero]
  have hcyc' : (s.hostTurn turn).beginStep.cyc = 6 := by rw [State.beginStep_cyc, hsync]; exact hcyc
  obtain ⟨t, ht, rfl, -⟩ := brkCycleSixLoadsPc _ hcyc'
  exact ⟨_, (step_of_decode hf hdecode).trans ht, rfl, (State.beginStep_fault _).trans hf, rfl, rfl⟩

/-- Inside the sequence, the micro-steps that are left lead to a fetch state. -/
theorem State.runTurns_to_fetch {s : State} {k : Nat} {turns : List (List HostAction)}
    (h : s.phase = .executing 0x00#8 k) (hk : k ≤ 6) (hlen : turns.length = 7 - k) :
    ∃ t, s.runTurns turns = .next t ∧ t.pins.sync = true ∧ t.fault = none ∧ t.cyc = 7 ∧
      t.pins.addr = t.regs.pc := by
  induction turns generalizing s k with
  | nil => simp only [List.length_nil] at hlen; omega
  | cons turn rest ih =>
    rw [List.length_cons] at hlen
    by_cases h6 : k = 6
    · subst h6
      obtain rfl : rest = [] := List.length_eq_zero_iff.1 (by omega)
      obtain ⟨t, ht, hfetch⟩ := State.cycle_of_final h turn
      exact ⟨t, State.runTurns_cons ht [], hfetch⟩
    · obtain ⟨-, inside, -⟩ := engineCyclesThroughItsPhases (s.hostTurn turn)
      obtain ⟨u, hu, hphase⟩ := inside k (by omega) ((s.hostTurn_phase turn).trans h)
      rw [State.runTurns_cons hu]
      exact ih hphase (by omega) (by omega)

/-- Settles O47, by induction on the turns that are left. -/
theorem sequenceReachesTheNextFetchInTime : Obligations.SequenceReachesTheNextFetchInTime :=
  fun s _ hf hsync hir _ hk hlen =>
    State.runTurns_to_fetch ((s.phase_eq_executing_iff _ _).2 ⟨hf, hsync, hir, rfl⟩) hk hlen

/-! ### The reset sequence under any host -/

/-- A pending reset is taken before every other request, and an NMI edge seen with it stays pending (60_exceptions.md
R101, R105). -/
theorem State.boundarySample_of_resetPending {s : State} (h : s.resetPending = true) :
    s.boundarySample =
      { s with
        ir := 0x00#8
        reason := .reset
        resetPending := false
        nmiLast := s.pins.nmi
        nmiPending := s.nmiPending || (s.pins.nmi && !s.nmiLast) } := by
  obtain ⟨-, hs⟩ | ⟨hr, -⟩ | ⟨hr, -⟩ | ⟨hr, -⟩ := s.boundarySample_cases
  · exact hs
  all_goals exact absurd h (Bool.eq_false_iff.1 hr)

/-- The state in which the first step dispatches, after the host's turn (70_reset_and_hazards.md R119, R120). -/
def State.resetDispatch (turn : List HostAction) : State := (State.reset.hostTurn turn).beginStep

/-- The first step takes the reset entry, and samples NMI with it; power-on counts as a 0 (60_exceptions.md R102). -/
theorem State.resetDispatch_eq (turn : List HostAction) :
    State.resetDispatch turn =
      { State.reset with
        pins := { (State.reset.hostTurn turn).pins with sync := false, rw := true }
        resetPending := false
        nmiLast := (State.reset.hostTurn turn).pins.nmi
        nmiPending := (State.reset.hostTurn turn).pins.nmi } := by
  have hframe := State.reset.hostTurn_frame turn
  have hsync : (State.reset.hostTurn turn).pins.sync = true := State.reset.hostTurn_sync turn
  have hreset : (State.reset.hostTurn turn).resetPending = true := by rw [hframe]; rfl
  rw [State.resetDispatch, State.beginStep_of_sync hsync, State.boundarySample_of_resetPending hreset, hframe]
  simp [State.reset]

theorem State.resetDispatch_reason (turn : List HostAction) : (State.resetDispatch turn).reason = .reset := by
  rw [State.resetDispatch_eq]
  rfl

/-- The register file of the reset entry before PC is loaded: three pushes below 0x00, and I set
(70_reset_and_hazards.md R121). -/
theorem State.resetDispatch_sequenceRegs (turn : List HostAction) :
    (State.resetDispatch turn).sequenceRegs 6 = { State.reset.regs with s := 0xFD#8, p := 0x26#8 } := by
  rw [State.resetDispatch_eq]
  simp [State.sequenceRegs, State.pushedPc, State.readP, State.reset, fixReserved, pcAdvance]

/-- The reset request stands whatever the host does before the first step. -/
theorem State.reset_entryRequested (turn : List HostAction) : (State.reset.hostTurn turn).EntryRequested := by
  rw [State.reset.hostTurn_frame turn]
  exact .inl rfl

/-- The points of a sequence by the turns since one of them. -/
theorem SequencePoint.runTurns {b s : State} {k : Nat} (p : SequencePoint b k s) {turns : List (List HostAction)}
    (hk : k + turns.length ≤ 6) : ∃ t, s.runTurns turns = .next t ∧ SequencePoint b (k + turns.length) t := by
  induction turns generalizing s k with
  | nil => exact ⟨s, rfl, p⟩
  | cons turn rest ih =>
    rw [List.length_cons] at hk ⊢
    obtain ⟨u, hu, hp, -⟩ := p.cycle (by omega) turn
    obtain ⟨t, ht, hpt⟩ := ih hp (by omega)
    exact ⟨t, (State.runTurns_cons hu rest).trans ht, by rwa [Nat.add_right_comm] at hpt⟩

/-- The points of the reset sequence, under any host. -/
theorem SequencePoint.of_reset (turn : List HostAction) {turns : List (List HostAction)} (hk : turns.length ≤ 5) :
    ∃ t, State.reset.runTurns (turn :: turns) = .next t ∧
      SequencePoint (State.resetDispatch turn) (1 + turns.length) t := by
  obtain ⟨s1, c1, p1, -⟩ := State.cycle_fetch (s := State.reset) rfl rfl (.inl (State.reset_entryRequested turn))
  rw [State.runTurns_cons c1]
  exact p1.runTurns (by omega)

/-- No step before the last of the reset sequence leaves a write cycle (41_brk_sequence.md R97, R98). -/
theorem State.rw_of_runTurns_reset {turns : List (List HostAction)} {u : State} (hlen : turns.length ≤ 6)
    (h : State.reset.runTurns turns = .next u) : u.pins.rw = true := by
  match turns, hlen with
  | [], _ => cases h; rfl
  | turn :: rest, hlen =>
    obtain ⟨t, ht, p⟩ := SequencePoint.of_reset turn (turns := rest) (Nat.le_of_succ_le_succ hlen)
    obtain rfl : t = u := by simpa [ht] using h
    have hreason : t.reason = .reset := p.reason.trans (State.resetDispatch_reason turn)
    obtain ⟨-, -, -, hwrite, -⟩ := reachableForm_of_runTurns h
    refine eq_true_of_ne_false fun hrw => ?_
    obtain ⟨-, -, -, -, hnotReset⟩ := hwrite hrw
    exact hnotReset hreason

/-- Settles O46: the end of the reset sequence, from its last two points; the states before it are the points of a
reset entry. -/
theorem stateAfterTheResetSequence : Obligations.StateAfterTheResetSequence := by
  intro h1 h2 h3 h4 h5 h6 h7
  obtain ⟨s5, r5, p5⟩ := SequencePoint.of_reset h1 (turns := [h2, h3, h4, h5]) (by simp)
  obtain ⟨s6, c6, p6, -, captured⟩ := p5.cycle (by simp) h6
  have c7 := p6.cycle_last h7
  have r6 : State.reset.runTurns [h1, h2, h3, h4, h5, h6] = .next s6 :=
    (State.runTurns_append r5 [h6]).trans (State.runTurns_cons c6 [])
  have r7 : State.reset.runTurns [h1, h2, h3, h4, h5, h6, h7] = .next (s6.sequenceEnd h7) :=
    (State.runTurns_append r6 [h7]).trans (State.runTurns_cons c7 [])
  refine ⟨s5, s6, _, r5, r6, r7, ?state, fun k hk u hu => ?reads⟩
  case state =>
    have had : s6.ad = zext16 (s5.hostTurn h6).pins.data := captured rfl
    have hregs := p6.regs.trans (State.resetDispatch_sequenceRegs h1)
    rw [State.resetDispatch_eq] at p6
    rw [State.sequenceEnd, had, lowByte_zext16, hregs]
    simp [joinBytes, zext16, State.reset, p6.ir, p6.reason, p6.resetPending, p6.nmiLast, p6.nmiPending, p6.fault]
  case reads =>
    by_cases h7' : k = 7
    · subst h7'
      obtain rfl : s6.sequenceEnd h7 = u := by simpa [r7] using hu
      rfl
    · exact State.rw_of_runTurns_reset (by simp; omega) hu

end Sys2Proof.Machine
end

section
/-! The reset under the reference host, and the BRK loop: an invariant of the reference host at the fetch of the loop's
BRK, which seven rounds carry from one such fetch to the next. -/

namespace Sys2Proof.Machine

/-! ### The reset under the reference host -/

/-- Under Reset the writes of the pushes are suppressed (41_brk_sequence.md R98). -/
theorem Memory.pushes_of_reset (m : Memory) {b : State} (hb : b.reason = .reset) : m.pushes b = m := by
  simp [Memory.pushes, Memory.commit, State.sequenceBusCycle, pushKind, hb]

/-- H_mem's turn sets the NMI line to its level of the schedule. -/
theorem RefHost.hostTurn_nmi (h : RefHost) (l : Lines) : (h.core.hostTurn (h.turn l)).pins.nmi = l.nmi := by
  cases hrw : h.core.pins.rw <;> simp [RefHost.turn, hrw, State.hostTurn, State.act, State.setData]

/-- Seven rounds from power-on, in a longer schedule: the reset sequence, which writes no memory
(70_reset_and_hazards.md R120, R122). -/
theorem RefHost.run_reset (m : Memory) (l1 l2 l3 l4 l5 l6 l7 : Lines) (rest : List Lines) :
    ∃ t, SequenceEnd (State.resetDispatch ((RefHost.powerOn m).turn l1)) m t ∧
      (RefHost.powerOn m).run (l1 :: l2 :: l3 :: l4 :: l5 :: l6 :: l7 :: rest) = RefHost.run ⟨t, m⟩ rest := by
  obtain ⟨t, e, hrun⟩ := RefHost.run_sequence (h := RefHost.powerOn m) l1 l2 l3 l4 l5 l6 l7 rest rfl rfl
    (.inl (State.reset_entryRequested _))
  have hmem : Memory.pushes (m.commit State.reset.busCycle) (State.resetDispatch ((RefHost.powerOn m).turn l1)) = m :=
    Memory.pushes_of_reset m (State.resetDispatch_reason _)
  exact ⟨t, hmem ▸ e, hmem ▸ hrun⟩

/-- I is set at the end of every sequence (41_brk_sequence.md R93). -/
theorem SequenceEnd.readP_eq {b t : State} {m : Memory} (e : SequenceEnd b m t) : t.readP = b.readP ||| 0x04#8 := by
  rw [State.readP, e.regs]
  exact fixReserved_setI b.regs.p

section
variable {m : Memory} {l : Lines} {t : State} (e : SequenceEnd (State.resetDispatch ((RefHost.powerOn m).turn l)) m t)
include e

/-- The register file after the reset under H_mem (70_reset_and_hazards.md R121). -/
theorem SequenceEnd.regs_of_reset :
    t.regs =
      { State.reset.regs with
        s := 0xFD#8
        p := 0x26#8
        pc := joinBytes (m.read 0xFFFD#16) (m.read 0xFFFC#16) } := by
  rw [e.regs, State.resetDispatch_eq]
  simp [State.readP, State.reset, fixReserved, vector]

theorem SequenceEnd.readP_of_reset : t.readP = 0x26#8 := by
  rw [e.readP_eq, State.resetDispatch_eq]
  change State.reset.readP ||| 0x04#8 = 0x26#8
  decide

/-- An NMI edge at the first step stays pending (60_exceptions.md R102). -/
theorem SequenceEnd.nmiPending_of_reset : t.nmiPending = l.nmi := by
  rw [e.nmiPending, State.resetDispatch_eq]
  exact RefHost.hostTurn_nmi (RefHost.powerOn m) l

end

/-- Settles O55, by the seven rounds of the reset. -/
theorem resetUnderTheReferenceHost : Obligations.ResetUnderTheReferenceHost := by
  intro m l1 l2 l3 l4 l5 l6 l7 g
  obtain ⟨t, e, hrun⟩ := RefHost.run_reset m l1 l2 l3 l4 l5 l6 l7 []
  have hg : g = ⟨t, m⟩ := hrun
  have hregs := e.regs_of_reset
  rw [hg]
  exact ⟨rfl, congrArg Registers.pc hregs, e.addr, e.sync, congrArg Registers.s hregs, e.readP_of_reset, e.fault,
    e.nmiPending_of_reset⟩

/-! ### The BRK loop -/

/-- The three bytes of an entry that is no reset, each at its address of R99's table. -/
theorem Memory.read_pushes_at {m : Memory} (hm : m.wf = true) {b : State} (hb : b.reason ≠ .reset) :
    (m.pushes b).read (stackAddress (b.regs.s - 1#8)) = highByte b.pushedPc ∧
      (m.pushes b).read (stackAddress (b.regs.s - 2#8)) = lowByte b.pushedPc ∧
      (m.pushes b).read (stackAddress (b.regs.s - 3#8)) = pushedImage b.reason b.readP := by
  have h21 : stackAddress (b.regs.s - 2#8) ≠ stackAddress (b.regs.s - 1#8) := stackAddress_sub_ne (by decide)
  have h31 : stackAddress (b.regs.s - 3#8) ≠ stackAddress (b.regs.s - 1#8) := stackAddress_sub_ne (by decide)
  have h32 : stackAddress (b.regs.s - 3#8) ≠ stackAddress (b.regs.s - 2#8) := stackAddress_sub_ne (by decide)
  simp [Memory.read_pushes_of_not_reset hm hb, h21, h31, h32]

/-- A memory that holds the loop of R131: BRK at `b`, the vector of a SoftwareBreak at `b`, and `b` where no push reaches
it (70_reset_and_hazards.md R127, R131). -/
structure BreakProgram (b : Addr) (m : Memory) : Prop where
  wf : m.wf = true
  vectorLow : m.read (vector .softwareBreak) = lowByte b
  vectorHigh : m.read (vector .softwareBreak + 1#16) = highByte b
  opcode : m.read b = 0x00#8
  outside : highByte b ≠ 0x01#8

/-- No push reaches the program. -/
theorem BreakProgram.pushes {b : Addr} {m : Memory} (p : BreakProgram b m) (d : State) :
    BreakProgram b (m.pushes d) where
  wf := Memory.pushes_wf p.wf d
  vectorLow := (Memory.read_pushes_of_highByte p.wf d (by decide)).trans p.vectorLow
  vectorHigh := (Memory.read_pushes_of_highByte p.wf d (by decide)).trans p.vectorHigh
  opcode := (Memory.read_pushes_of_highByte p.wf d p.outside).trans p.opcode
  outside := p.outside

/-- H_mem stands at the fetch of `b`, after the reset and `n` BRKs of the loop. -/
structure BreakLoopPoint (b : Addr) (n : Nat) (h : RefHost) : Prop where
  program : BreakProgram b h.mem
  pc : h.core.regs.pc = b
  addr : h.core.pins.addr = b
  sync : h.core.pins.sync = true
  rw : h.core.pins.rw = true
  s : h.core.regs.s = 0xFD#8 - BitVec.ofNat 8 (3 * n)
  status : h.core.readP = 0x26#8
  fault : h.core.fault = none
  resetPending : h.core.resetPending = false
  nmiPending : h.core.nmiPending = false
  pushed : 1 ≤ n →
    h.mem.read (stackAddress (h.core.regs.s + 2#8)) = highByte (b + 1#16) ∧
      h.mem.read (stackAddress (h.core.regs.s + 1#8)) = lowByte (b + 1#16) ∧
      h.mem.read (stackAddress h.core.regs.s) = 0x36#8

/-- The reset leads to the loop, when no NMI edge comes with it. -/
theorem BreakLoopPoint.of_reset {b : Addr} {m : Memory} {l : Lines} {t : State} (p : BreakProgram b m)
    (hlo : m.read 0xFFFC#16 = lowByte b) (hhi : m.read 0xFFFD#16 = highByte b) (hnmi : l.nmi = false)
    (e : SequenceEnd (State.resetDispatch ((RefHost.powerOn m).turn l)) m t) : BreakLoopPoint b 0 ⟨t, m⟩ := by
  have hregs := e.regs_of_reset
  rw [hlo, hhi, joinBytes_high_low] at hregs
  have hpc : t.regs.pc = b := congrArg Registers.pc hregs
  exact {
    program := p
    pc := hpc
    addr := e.addr.trans hpc
    sync := e.sync
    rw := e.rw
    s := congrArg Registers.s hregs
    status := e.readP_of_reset
    fault := e.fault
    resetPending := by rw [e.resetPending, State.resetDispatch_eq]
    nmiPending := e.nmiPending_of_reset.trans hnmi
    pushed := fun h => nomatch h }

section
variable {b : Addr} {n : Nat} {h : RefHost} (p : BreakLoopPoint b n h)
include p

/-- With no NMI edge no entry is requested in the loop, since I is set. -/
theorem BreakLoopPoint.not_entryRequested {l : Lines} (hnmi : l.nmi = false) :
    ¬ (h.core.hostTurn (h.turn l)).EntryRequested := by
  have hline : (h.core.hostTurn (h.turn l)).pins.nmi = false := (RefHost.hostTurn_nmi h l).trans hnmi
  have hflag : (h.core.hostTurn (h.turn l)).flag .i = true := by
    rw [State.flag_congr (congrArg Registers.p (h.core.hostTurn_regs _)), State.flag, p.status]
    rfl
  have hpending : (h.core.hostTurn (h.turn l)).nmiPending = false := by
    rw [h.core.hostTurn_frame]
    exact p.nmiPending
  have hreset : (h.core.hostTurn (h.turn l)).resetPending = false := by
    rw [h.core.hostTurn_frame]
    exact p.resetPending
  simp [hline, hflag, hpending, hreset]

/-- H_mem answers the fetch with the byte at `b`. -/
theorem BreakLoopPoint.fetched (l : Lines) : (h.core.hostTurn (h.turn l)).pins.data = 0x00#8 := by
  rw [RefHost.hostTurn_data_of_read (h.core.busCycle_kind_eq_read_iff.2 p.rw)]
  exact (congrArg h.mem.read p.addr).trans p.program.opcode

/-- The state in which the BRK of the loop dispatches: a SoftwareBreak with the registers of the fetch state. -/
theorem BreakLoopPoint.dispatch {l : Lines} (hnmi : l.nmi = false) :
    let d := (h.core.hostTurn (h.turn l)).beginStep
    d.reason = .softwareBreak ∧ d.regs = h.core.regs ∧ d.resetPending = false ∧ d.nmiPending = false := by
  have hsync : (h.core.hostTurn (h.turn l)).pins.sync = true := (h.core.hostTurn_sync _).trans p.sync
  rw [State.beginStep_of_not_entryRequested hsync (p.not_entryRequested hnmi), h.core.hostTurn_frame]
  exact ⟨rfl, rfl, p.resetPending, rfl⟩

/-- A BRK of the loop leads from one fetch of `b` to the next, and leaves its three bytes below S. -/
theorem BreakLoopPoint.of_sequenceEnd {d t : State} (hreason : d.reason = .softwareBreak)
    (hregs : d.regs = h.core.regs) (hreset : d.resetPending = false) (hpending : d.nmiPending = false)
    (e : SequenceEnd d (h.mem.pushes d) t) : BreakLoopPoint b (n + 1) ⟨t, h.mem.pushes d⟩ := by
  have hprogram := p.program.pushes d
  have hstatus : d.readP = 0x26#8 := by rw [State.readP, hregs]; exact p.status
  have hs : t.regs.s = h.core.regs.s - 3#8 := by rw [e.regs, hregs]
  have hpc : t.regs.pc = b := by
    rw [e.regs, hreason, hprogram.vectorLow, hprogram.vectorHigh]
    exact joinBytes_high_low b
  exact {
    program := hprogram
    pc := hpc
    addr := e.addr.trans hpc
    sync := e.sync
    rw := e.rw
    s := by
      change t.regs.s = _
      rw [hs, p.s, BitVec.sub_sub, Nat.mul_succ, BitVec.ofNat_add]
    status := e.readP_eq.trans (by rw [hstatus]; rfl)
    fault := e.fault
    resetPending := e.resetPending.trans hreset
    nmiPending := e.nmiPending.trans hpending
    pushed := fun _ => by
      obtain ⟨hhigh, hlow, hlast⟩ := Memory.read_pushes_at p.program.wf (b := d) (by simp [hreason])
      have hpushedPc : d.pushedPc = b + 1#16 := by rw [State.pushedPc, hregs, p.pc, hreason, pcAdvance]
      have himage : pushedImage d.reason d.readP = 0x36#8 := by rw [hreason, hstatus]; rfl
      have hs2 : h.core.regs.s - 3#8 + 2#8 = h.core.regs.s - 1#8 := by bv_omega
      have hs1 : h.core.regs.s - 3#8 + 1#8 = h.core.regs.s - 2#8 := by bv_omega
      rw [hregs, hpushedPc] at hhigh hlow
      rw [hregs, himage] at hlast
      simp only [hs, hs2, hs1]
      exact ⟨hhigh, hlow, hlast⟩ }

/-- Seven rounds lead from one fetch of `b` to the next. -/
theorem BreakLoopPoint.next {l1 : Lines} (l2 l3 l4 l5 l6 l7 : Lines) (rest : List Lines) (hnmi : l1.nmi = false) :
    ∃ g, BreakLoopPoint b (n + 1) g ∧ h.run (l1 :: l2 :: l3 :: l4 :: l5 :: l6 :: l7 :: rest) = g.run rest := by
  obtain ⟨t, e, hrun⟩ := RefHost.run_sequence l1 l2 l3 l4 l5 l6 l7 rest p.fault p.sync (.inr (p.fetched l1))
  have hmem : h.mem.commit h.core.busCycle = h.mem := by
    rw [Memory.commit, h.core.busCycle_kind_eq_read_iff.2 p.rw]
  rw [hmem] at e hrun
  obtain ⟨hreason, hregs, hreset, hpending⟩ := p.dispatch hnmi
  exact ⟨_, p.of_sequenceEnd hreason hregs hreset hpending e, hrun⟩

end

/-! ### The schedule -/

/-- NMI is 0 at the fetch steps of a schedule that begins at one: its entries 0, 7, 14, ... -/
def NmiLowAtFetches (ls : List Lines) : Prop := ∀ k l, ls[7 * k]? = some l → l.nmi = false

theorem NmiLowAtFetches.head {l : Lines} {ls : List Lines} (h : NmiLowAtFetches (l :: ls)) : l.nmi = false := h 0 l rfl

theorem NmiLowAtFetches.tail {l1 l2 l3 l4 l5 l6 l7 : Lines} {ls : List Lines}
    (h : NmiLowAtFetches (l1 :: l2 :: l3 :: l4 :: l5 :: l6 :: l7 :: ls)) : NmiLowAtFetches ls :=
  fun k l hl => h (k + 1) l hl

/-- A schedule of at least seven rounds, by its first seven. -/
theorem exists_seven_rounds {ls : List Lines} (h : 7 ≤ ls.length) :
    ∃ l1 l2 l3 l4 l5 l6 l7 rest, ls = l1 :: l2 :: l3 :: l4 :: l5 :: l6 :: l7 :: rest := by
  match ls, h with
  | l1 :: l2 :: l3 :: l4 :: l5 :: l6 :: l7 :: rest, _ => exact ⟨l1, l2, l3, l4, l5, l6, l7, rest, rfl⟩

/-- `n` more BRKs of the loop. -/
theorem BreakLoopPoint.run {b : Addr} {k n : Nat} {h : RefHost} {ls : List Lines} (p : BreakLoopPoint b k h)
    (hlen : ls.length = 7 * n) (hnmi : NmiLowAtFetches ls) : BreakLoopPoint b (k + n) (h.run ls) := by
  induction n generalizing k h ls with
  | zero =>
    obtain rfl : ls = [] := List.length_eq_zero_iff.1 hlen
    exact p
  | succ n ih =>
    obtain ⟨l1, l2, l3, l4, l5, l6, l7, rest, rfl⟩ := exists_seven_rounds (ls := ls) (by omega)
    obtain ⟨t, pt, hrun⟩ := p.next l2 l3 l4 l5 l6 l7 rest hnmi.head
    rw [hrun, Nat.add_comm n, ← Nat.add_assoc]
    exact ih pt (by simp only [List.length_cons] at hlen; omega) hnmi.tail

/-- Settles O57: the reset leads to the loop, and each BRK leads to the next. -/
theorem breakLoopDescendsTheStack : Obligations.BreakLoopDescendsTheStack := by
  intro m b n ls hwf hlo hhi hbrkLo hbrkHi hop hout hlen hnmi g s
  obtain ⟨l1, l2, l3, l4, l5, l6, l7, rest, rfl⟩ := exists_seven_rounds (ls := ls) (by omega)
  have hlow : NmiLowAtFetches (l1 :: l2 :: l3 :: l4 :: l5 :: l6 :: l7 :: rest) := hnmi
  obtain ⟨t, e, hrun⟩ := RefHost.run_reset m l1 l2 l3 l4 l5 l6 l7 rest
  have p0 := BreakLoopPoint.of_reset ⟨hwf, hbrkLo, hbrkHi, hop, hout⟩ hlo hhi hlow.head e
  have p : BreakLoopPoint b (0 + n) g := by
    rw [show g = _ from hrun]
    exact p0.run (by simp only [List.length_cons] at hlen; omega) hlow.tail
  rw [Nat.zero_add] at p
  have hs : g.core.regs.s = s := p.s
  exact ⟨p.pc, p.addr, p.sync, hs, p.status, p.fault, hs ▸ p.pushed⟩

end Sys2Proof.Machine
end

section
/-! The canonical form of the reference host's memory (log entry 10) along a run: the service of each round keeps it, and
the step does not reach the memory. -/

namespace Sys2Proof.Machine

/-- A round that answers a next state leaves the memory as its service left it (R35, R62). -/
theorem RefHost.mem_of_round_next {h g : RefHost} {l : Lines} (hr : h.round l = .next g) :
    g.mem = (h.setLines l).service.mem := by
  cases hc : step (h.setLines l).service.core with
  | next c =>
    rw [RefHost.round_of_step hc] at hr
    cases hr
    rfl
  | fault f => simp [RefHost.round, hc] at hr
  | refused r => simp [RefHost.round, hc] at hr

theorem RefHost.round_wf {h g : RefHost} {l : Lines} (hw : h.mem.wf = true) (hr : h.round l = .next g) :
    g.mem.wf = true := by
  rw [RefHost.mem_of_round_next hr]
  exact RefHost.service_wf (h := h.setLines l) hw

/-- By induction on the schedule; a round that stops leaves H_mem as it was before the round. -/
theorem RefHost.run_wf {h : RefHost} (ls : List Lines) (hw : h.mem.wf = true) : (h.run ls).mem.wf = true := by
  induction ls generalizing h with
  | nil => exact hw
  | cons l rest ih =>
    cases hr : h.round l with
    | next g => simpa [RefHost.run, hr] using ih (RefHost.round_wf hw hr)
    | fault f => simpa [RefHost.run, hr] using hw
    | refused r => simpa [RefHost.run, hr] using hw

/-- Settles O54: no byte is listed in the empty memory, and every run keeps the canonical form. -/
theorem refHostKeepsItsMemoryCanonical : Obligations.RefHostKeepsItsMemoryCanonical :=
  ⟨Memory.wf_nil, fun _ ls hw => RefHost.run_wf ls hw⟩

end Sys2Proof.Machine
end
